-- ==== Sys2Proof/Syntax.lean ====
section
/-! DEFINITION. The 14 commands of 30_encoding.md R92, one constructor per row of opcode_table.json. A command
carries no operand (R93): operands come from block registers and buffers. -/

namespace Sys2Proof

/-- A command of the block (R92); the docstrings give the source operation. -/
inductive Instr where
  /-- calculateCRC (40_crc16.md R115). -/
  | crccalc
  /-- isValidFrame (R117). -/
  | crcval
  /-- registersToInt32 (41_word_order.md R133). -/
  | r2i32
  /-- registersToInt64 (R134). -/
  | r2i64
  /-- registersToFloat32 (R135). -/
  | r2f32
  /-- registersToFloat64 (R136). -/
  | r2f64
  /-- int32ToRegisters (R137). -/
  | i322r
  /-- int64ToRegisters (R138). -/
  | i642r
  /-- float32ToRegisters (R139). -/
  | f322r
  /-- float64ToRegisters (R140). -/
  | f642r
  /-- registersToString (42_string.md R151). -/
  | r2str
  /-- stringToRegisters (R153). -/
  | str2r
  /-- byte swap of wire words (43_wire_aux.md R161). -/
  | ldwbe
  /-- widening of a word to a signed 32-bit value (R163). -/
  | widen
deriving DecidableEq, Repr

end Sys2Proof
end

