-- ==== Sys2Proof/Word.lean ====
section
/-! DEFINITION. The bit widths of the block's data (10_state.md R21, R37, R38). -/

namespace Sys2Proof

/-- One cell of BUF (R37), one command word (R90). -/
abbrev Byte := BitVec 8

/-- One cell of WBUF: a Modbus register word, W_WORD = 16 (R10, R38). -/
abbrev Word := BitVec 16

end Sys2Proof
end

