-- ==== Sys2Proof/Decode.lean ====
section
/-! DEFINITION. The command decoder, read from the formats of 30_encoding.md R90 and R91, and the encoder, read
from the code table of R92. -/

namespace Sys2Proof

/-- R94: every byte is either one of the 14 commands or IllegalCommand. -/
inductive Decoded where
  | command (i : Instr)
  /-- A reserved code; the block completes with ERR = IllegalCommand (R94, 60_exceptions.md R176). -/
  | illegalCommand
deriving DecidableEq, Repr

/-- The four formats of R90. -/
inductive Format where
  | cr | cv | st | ax
deriving DecidableEq, Repr

/-- GRP, bits 7:4 (R90). -/
def grp (c : Byte) : BitVec 4 := c.extractLsb' 4 4

/-- FN, bits 3:0 (R90). -/
def fn (c : Byte) : BitVec 4 := c.extractLsb' 0 4

/-- The GRP column of R90. -/
def Format.group : Format → BitVec 4
  | .cr => 0b0001#4
  | .cv => 0b0010#4
  | .st => 0b0011#4
  | .ax => 0b0100#4

/-- The format a group names, none for a group R90 does not list. -/
def Format.ofGroup (g : BitVec 4) : Option Format :=
  if g = Format.cr.group then some .cr
  else if g = Format.cv.group then some .cv
  else if g = Format.st.group then some .st
  else if g = Format.ax.group then some .ax
  else none

/-- The numeric conversion of the selector bits of R91: `d` direction, `t` type, `s` size. -/
def conversion (d t s : Bool) : Instr :=
  match d, t, s with
  | false, false, false => .r2i32
  | false, false, true => .r2i64
  | false, true, false => .r2f32
  | false, true, true => .r2f64
  | true, false, false => .i322r
  | true, false, true => .i642r
  | true, true, false => .f322r
  | true, true, true => .f642r

/-- A format whose FN is `000f` (R90): `zero` for f = 0, `one` for f = 1, reserved otherwise. -/
def decodePair (f : BitVec 4) (zero one : Instr) : Decoded :=
  if f = 0b0000#4 then .command zero
  else if f = 0b0001#4 then .command one
  else .illegalCommand

/-- FN of a known format (R90, R91); FN[3] of format CV must be 0. -/
def decodeFn (fmt : Format) (f : BitVec 4) : Decoded :=
  match fmt with
  | .cr => decodePair f .crccalc .crcval
  | .cv => if f.getLsbD 3 then .illegalCommand else .command (conversion (f.getLsbD 2) (f.getLsbD 1) (f.getLsbD 0))
  | .st => decodePair f .r2str .str2r
  | .ax => decodePair f .ldwbe .widen

/-- The decoder, total on bytes (R94). -/
def decode (c : Byte) : Decoded :=
  match Format.ofGroup (grp c) with
  | some fmt => decodeFn fmt (fn c)
  | none => .illegalCommand

/-- The code column of R92. -/
def encode : Instr → Byte
  | .crccalc => 0x10#8
  | .crcval => 0x11#8
  | .r2i32 => 0x20#8
  | .r2i64 => 0x21#8
  | .r2f32 => 0x22#8
  | .r2f64 => 0x23#8
  | .i322r => 0x24#8
  | .i642r => 0x25#8
  | .f322r => 0x26#8
  | .f642r => 0x27#8
  | .r2str => 0x30#8
  | .str2r => 0x31#8
  | .ldwbe => 0x40#8
  | .widen => 0x41#8

/-- The format column of R92. -/
def formatOf : Instr → Format
  | .crccalc => .cr
  | .crcval => .cr
  | .r2i32 => .cv
  | .r2i64 => .cv
  | .r2f32 => .cv
  | .r2f64 => .cv
  | .i322r => .cv
  | .i642r => .cv
  | .f322r => .cv
  | .f642r => .cv
  | .r2str => .st
  | .str2r => .st
  | .ldwbe => .ax
  | .widen => .ax

/-- The instruction the decoder reads from a table word: a command is always one word of 8 bits (R90, R95). -/
def decodeTableWord (nbits w : Nat) : Option Instr :=
  if nbits = 8 ∧ w < 2 ^ 8 then
    match decode (BitVec.ofNat 8 w) with
    | .command i => some i
    | .illegalCommand => none
  else none

end Sys2Proof
end

