-- ==== Sys2Proof/Config.lean ====
section
/-! DEFINITION. What is fixed for the machine: the constants of 00_scope.md R10, its open capacities as a
record, and the free values of never-written cells. -/

namespace Sys2Proof.Config

/-- CRC_POLY (R10): the feedback constant. -/
def crcPoly : BitVec 16 := 0xA001#16

/-- CRC_INIT (R10): the initial checksum, 0xFFFF. -/
def crcInit : BitVec 16 := 0xFFFF#16

/-- UNIT_MIN (R10). -/
def unitMin : Nat := 1

/-- UNIT_MAX (R10). -/
def unitMax : Nat := 247

/-- FRAME_MIN (R10). -/
def frameMin : Nat := 6

/-- The open capacities of R10 ("OPEN, model argument"): they stand in State, no step changes them, and
statements range over all of them. -/
structure Params where
  /-- BUF_CAP: cells of BUF; 6 <= BUF_CAP <= 65535. -/
  bufCap : Nat
  /-- WCAP: cells of WBUF; 4 <= WCAP <= 65535. -/
  wcap : Nat
deriving DecidableEq, Repr

/-- The values R10 suggests; State.reset carries them. DESIGN CHOICE, unsafe [log 1]. -/
def suggested : Params := ⟨2100, 125⟩

/-- The byte a read of a never-written BUF cell gives (R44, U2: a fresh draw at each read): the first number
is the step's draw counter, the second which BUF read of that step it is. Free: no body. Safe [log 2]. -/
opaque freeByte : Nat → Nat → Byte

/-- The word a read of a never-written WBUF cell gives, as `freeByte`. Free: no body. Safe [log 2]. -/
opaque freeWord : Nat → Nat → Word

end Sys2Proof.Config
end

