-- ==== Sys2Proof/Machine/Primitive.lean ====
section
/-! DEFINITION. The vocabulary of the block's outside: its nine registers by number, the host primitives, the
turns of a run, and what a host read returned. -/

namespace Sys2Proof.Machine

/-- The block registers of 10_state.md R21. -/
inductive Reg where
  | cmd | status | cfg | a | n | buflen | wcnt | crc | v
deriving DecidableEq, Repr

/-- The "No." column of R21. -/
def Reg.number : Reg → Nat
  | .cmd => 0
  | .status => 1
  | .cfg => 2
  | .a => 3
  | .n => 4
  | .buflen => 5
  | .wcnt => 6
  | .crc => 7
  | .v => 8

/-- The register of a number; numbers 9 and above do not exist (R41). -/
def Reg.ofNumber : Nat → Option Reg
  | 0 => some .cmd
  | 1 => some .status
  | 2 => some .cfg
  | 3 => some .a
  | 4 => some .n
  | 5 => some .buflen
  | 6 => some .wcnt
  | 7 => some .crc
  | 8 => some .v
  | _ => none

/-- The "Width" column of R21. -/
def Reg.width : Reg → Nat
  | .cmd => 8
  | .status => 8
  | .cfg => 8
  | .a => 32
  | .n => 16
  | .buflen => 16
  | .wcnt => 16
  | .crc => 16
  | .v => 64

/-- The seven host primitives of 00_scope.md R14. A register access names the number and the width it is made
at and a write the number offered, because R71 judges all three. -/
inductive Primitive where
  | readReg (r width : Nat)
  | writeReg (r width value : Nat)
  | readBuf (i : Nat)
  | writeBuf (i : Nat) (b : Byte)
  | readWord (k : Nat)
  | writeWord (k : Nat) (w : Word)
  | reset
deriving DecidableEq, Repr

/-- One turn of a run: the host performs a primitive, or the block's executor acts (the completion event of
10_state.md R26). DESIGN CHOICE, safe [log 3]. -/
inductive Event where
  | host (p : Primitive)
  | block
deriving DecidableEq, Repr

/-- What one host read returned; a register's value is zero-extended to the widest register [log 9]. -/
inductive Observation where
  | reg (r : Reg) (value : BitVec 64)
  | byte (i : Nat) (b : Byte)
  | word (k : Nat) (w : Word)
deriving DecidableEq, Repr

/-- The primitives a host may perform while BUSY: a STATUS read and a reset (70_reset_and_hazards.md R210). -/
def Primitive.allowedWhileBusy : Primitive → Bool
  | .readReg r _ => r == Reg.status.number
  | .reset => true
  | .writeReg _ _ _ => false
  | .readBuf _ => false
  | .writeBuf _ _ => false
  | .readWord _ => false
  | .writeWord _ _ => false

end Sys2Proof.Machine
end

