-- ==== Sys2Proof/Machine/State.lean ====
section
/-! DEFINITION. The state of the block (10_state.md), the ways a step can stop, and the state after reset. -/

namespace Sys2Proof.Machine

/-- A buffer: written cells as (index, value) pairs, indices strictly rising, each once. A cell that is not
listed has not been written since reset (R44). -/
abbrev Memory (w : Nat) := List (Nat × BitVec w)

/-- CFG.ORDER (R30): RegisterOrder of the source. -/
inductive WordOrder where
  | lowWordFirst | highWordFirst
deriving DecidableEq, Repr

/-- STATUS.REASON (R25, R28); the values 4 to 7 are never produced (U8). -/
inductive Reason where
  | none | tooShort | unitIdRange | crcMismatch
deriving DecidableEq, Repr

/-- STATUS.ERR (R25, 60_exceptions.md R171); the values 4 to 7 are never produced (U8). -/
inductive Err where
  | none | arityError | boundsError | illegalCommand
deriving DecidableEq, Repr

/-- STATUS (R25) by fields; its byte is `Status.toByte` in Machine/Flags.lean. -/
structure Status where
  busy : Bool
  valid : Bool
  reason : Reason
  err : Err
deriving DecidableEq, Repr

/-- Why the machine stops for good. -/
inductive Fault where
  /-- A host primitive other than a STATUS read or a reset while BUSY (70_reset_and_hazards.md R210, U1).
  Raised by `perform`; never cleared. Safe [log 5]. -/
  | accessWhileBusy
deriving DecidableEq, Repr

/-- Host accesses the spec gives no meaning (20_memory.md R74), and commands without a meaning. -/
inductive Refusal where
  /-- A command of the table that exec does not model yet; raised by no arm of this model. Safe. -/
  | notModelled (mnemonic : String)
  /-- A register number above 8 (R71, U3). Raised by `perform`. Safe [log 6]. -/
  | noSuchRegister
  /-- A register access at another width than the register's (R71, U3). Raised by `perform`. Safe [log 6]. -/
  | wrongWidth
  /-- A written number that does not fit the register's width (R71, U3). Raised by `perform`. Safe [log 6]. -/
  | valueTooWide
  /-- A BUF index at or above BUF_CAP (R73, U3). Raised by `perform`. Safe [log 6]. -/
  | bufIndexOutside
  /-- A WBUF index at or above WCAP (R73, U3). Raised by `perform`. Safe [log 6]. -/
  | wbufIndexOutside
  /-- A write of BUFLEN above BUF_CAP (R72, U4). Raised by `perform`. Safe [log 6]. -/
  | buflenAboveCapacity
  /-- A write of WCNT above WCAP (R72, U4). Raised by `perform`. Safe [log 6]. -/
  | wcntAboveCapacity
deriving DecidableEq, Repr

/-- The block (R20) with its capacities (R10), and the model's own fields: the turns to come, what the host has
read, and the draw counter. -/
structure State where
  /-- BUF_CAP and WCAP (R10). -/
  params : Config.Params
  /-- CMD (R24): the code last written; the host reads 0. -/
  cmd : Byte
  /-- STATUS (R25). -/
  status : Status
  /-- CFG bit 0 (R30); bits 7:1 hold nothing. -/
  order : WordOrder
  /-- A (R31). -/
  a : BitVec 32
  /-- N (R32). -/
  n : BitVec 16
  /-- BUFLEN (R33). -/
  buflen : BitVec 16
  /-- WCNT (R34). -/
  wcnt : BitVec 16
  /-- CRC (R35). -/
  crc : BitVec 16
  /-- V (R36). -/
  v : BitVec 64
  /-- BUF (R37). -/
  buf : Memory 8
  /-- WBUF (R38). -/
  wbuf : Memory 16
  /-- Model's own: the turns to come (R23: a program is a list of host primitives) [log 3, 4]. -/
  events : List Event
  /-- Model's own: what host reads returned, newest first [log 9]. -/
  observed : List Observation
  /-- Model's own: selects the free values of the present step [log 2]. -/
  draws : Nat
deriving DecidableEq, Repr

/-- STATUS after reset: 0x00 (R43). -/
def Status.reset : Status := ⟨false, false, .none, .none⟩

/-- The machine right after reset (R43, R44, 70_reset_and_hazards.md R200). The capacities are the suggested
ones [log 1]; CMD's stored code [log 11] and the model's own fields [log 2, 3, 9] are DESIGN CHOICE. -/
def State.reset : State where
  params := Config.suggested
  cmd := 0x00#8
  status := Status.reset
  order := .lowWordFirst
  a := 0#32
  n := 0#16
  buflen := 0#16
  wcnt := 0#16
  crc := 0xFFFF#16
  v := 0#64
  buf := []
  wbuf := []
  events := []
  observed := []
  draws := 0

end Sys2Proof.Machine
end

