-- ==== Sys2Proof/Machine/Ops.lean ====
section
/-! DEFINITION. The named operations over buffers and registers, starting a command, ending it, and the reset. -/

namespace Sys2Proof.Machine

namespace Memory

/-- What a cell that is not listed holds: no value (R44: unspecified after reset). A read of it draws a free
value (`State.bufRead`, `State.wbufRead`). -/
def unlisted {w : Nat} : Option (BitVec w) := none

/-- The value stored in a cell, if it has been written since reset. -/
def read? {w : Nat} : Memory w → Nat → Option (BitVec w)
  | [], _ => unlisted
  | (j, x) :: m, i => if j = i then some x else read? m i

/-- Write one cell, keeping the indices strictly rising. -/
def write {w : Nat} : Memory w → Nat → BitVec w → Memory w
  | [], i, x => [(i, x)]
  | (j, y) :: m, i, x =>
    if i < j then (i, x) :: (j, y) :: m
    else if i = j then (i, x) :: m
    else (j, y) :: write m i x

/-- Write consecutive cells from index `i`. -/
def writeAll {w : Nat} : Memory w → Nat → List (BitVec w) → Memory w
  | m, _, [] => m
  | m, i, x :: xs => writeAll (m.write i x) (i + 1) xs

/-- The canonical form: indices strictly rising. Nothing listed equals an unlisted cell, which has no value. -/
def wf {w : Nat} : Memory w → Bool
  | [] => true
  | (_, _) :: [] => true
  | (j, _) :: (k, y) :: m => decide (j < k) && wf ((k, y) :: m)

/-- Every listed index is inside the capacity. -/
def below {w : Nat} (cap : Nat) (m : Memory w) : Bool := m.all fun c => decide (c.1 < cap)

end Memory

/-- The completion event of a command that ends with code `e`: BUSY <- 0 and ERR <- `e` (R26, R29). -/
def State.complete (s : State) (e : Err) : State :=
  { s with status := { s.status with busy := false, err := e } }

/-- `ERR <- None` at the end of a command that performed its operation (R29). -/
def State.finish (s : State) : State := s.complete .none

/-- `raise E` (60_exceptions.md R173): the command stops, ERR <- E and BUSY <- 0, nothing else changes. Nothing is
saved and control goes nowhere (R181), so there is no return beside it (R182). -/
def State.raise (s : State) (e : Err) : State := s.complete e

/-- The CMD write with the block idle (R24): BUSY becomes 1 and the command `c` is in flight. -/
def State.issue (s : State) (c : Byte) : State :=
  { s with cmd := c, status := { s.status with busy := true } }

/-- HostReset (R200): the reset state whatever a running command had done, with buffer contents unspecified.
The capacities are the machine's; the turns to come, the host's observations and the draw counter are not the
block's and stay [log 16]. -/
def State.hostReset (s : State) : State :=
  { State.reset with params := s.params, events := s.events, observed := s.observed, draws := s.draws }

/-- The host records what a read returned [log 9]. -/
def State.observe (s : State) (o : Observation) : State :=
  { s with observed := o :: s.observed }

/-- A step takes the next turn off the list and gets free values of its own [log 2, 3]. -/
def State.tick (s : State) : State :=
  { s with events := s.events.tail, draws := s.draws + 1 }

/-- The BUF cell `i` as the `k`-th BUF read of the present step sees it: the stored byte, or a free value if the
cell was never written (R44, U2). -/
def State.bufRead (s : State) (k i : Nat) : Byte :=
  (s.buf.read? i).getD (Config.freeByte s.draws k)

/-- The WBUF cell `i` as the `k`-th WBUF read of the present step sees it, as `State.bufRead`. -/
def State.wbufRead (s : State) (k i : Nat) : Word :=
  (s.wbuf.read? i).getD (Config.freeWord s.draws k)

/-- Store consecutive bytes of BUF from index 0. -/
def State.storeBytes (s : State) (bs : List Byte) : State :=
  { s with buf := s.buf.writeAll 0 bs }

/-- Store consecutive words of WBUF from index 0 and set WCNT to their count (R34). -/
def State.storeWords (s : State) (ws : List Word) : State :=
  { s with wbuf := s.wbuf.writeAll 0 ws, wcnt := BitVec.ofNat 16 ws.length }

end Sys2Proof.Machine
end

