-- ==== Sys2Proof/Machine/Flags.lean ====
section
/-! DEFINITION. STATUS and CFG as bytes (10_state.md R25, R30), and the answer of CRCVAL in STATUS (R27, R28). -/

namespace Sys2Proof.Machine

/-- The codes of REASON (R25). -/
def Reason.code : Reason → BitVec 3
  | .none => 0#3
  | .tooShort => 1#3
  | .unitIdRange => 2#3
  | .crcMismatch => 3#3

/-- The codes of ERR (60_exceptions.md R171). -/
def Err.code : Err → BitVec 3
  | .none => 0#3
  | .arityError => 1#3
  | .boundsError => 2#3
  | .illegalCommand => 3#3

/-- STATUS as the host reads it (R25): ERR in bits 7:5, REASON in 4:2, VALID in 1, BUSY in 0. -/
def Status.toByte (t : Status) : Byte :=
  t.err.code ++ t.reason.code ++ BitVec.ofBool t.valid ++ BitVec.ofBool t.busy

/-- The code of a word order (R30): 0 LowWordFirst, 1 HighWordFirst. -/
def WordOrder.bit : WordOrder → Bool
  | .lowWordFirst => false
  | .highWordFirst => true

/-- The word order of CFG bit 0 (R30). -/
def WordOrder.ofBit : Bool → WordOrder
  | false => .lowWordFirst
  | true => .highWordFirst

/-- CFG as the host reads it: ORDER in bit 0, bits 7:1 read 0 (R30, R41). -/
def State.cfgByte (s : State) : Byte := 0#7 ++ BitVec.ofBool s.order.bit

/-- A CRCVAL that completes with ERR = None writes VALID and REASON together (R27, R28): VALID = 1 exactly when
REASON = None. -/
def State.answer (s : State) (r : Reason) : State :=
  { s with status := ⟨false, decide (r = .none), r, .none⟩ }

end Sys2Proof.Machine
end

