-- ==== Sys2Proof/Machine/Operands.lean ====
section
/-! DEFINITION. Operand assembly (30_encoding.md R93): each source operand from the register or buffer that holds
it, full width, unsigned, as an unbounded natural where the rules compute with it (20_memory.md R76). Also the
word and byte helpers of 00_scope.md R11, R12. -/

namespace Sys2Proof.Machine

/-- `ceil2(n)` of R11. -/
def ceil2 (n : Nat) : Nat := (n + 1) / 2

/-- Bits 7:0 of a word. -/
def lowByte (w : Word) : Byte := w.extractLsb' 0 8

/-- Bits 15:8 of a word. -/
def highByte (w : Word) : Byte := w.extractLsb' 8 8

/-- The word with bits 15:8 = `hi` and bits 7:0 = `lo`. -/
def packWord (hi lo : Byte) : Word := hi ++ lo

/-- `sext_32` of a word (R12). -/
def sext32 (w : Word) : BitVec 32 := w.signExtend 32

/-- `zext_64` of a 32-bit pattern (R12). -/
def zext64 (x : BitVec 32) : BitVec 64 := x.setWidth 64

/-- A as a start index or offset (R31). -/
abbrev State.start (s : State) : Nat := s.a.toNat

/-- N as a count or length (R32). -/
abbrev State.count (s : State) : Nat := s.n.toNat

/-- BUFLEN as the bound of BUF (R33). -/
abbrev State.bufBound (s : State) : Nat := s.buflen.toNat

/-- WCNT as the number of words presented (R34). -/
abbrev State.wordCount (s : State) : Nat := s.wcnt.toNat

/-- V[31:0], the value of a 32-bit type (R36). -/
abbrev State.value32 (s : State) : BitVec 32 := s.v.extractLsb' 0 32

/-- A 32-bit result goes to V[31:0] and V[63:32] becomes 0 (R36). -/
def State.setValue32 (s : State) (x : BitVec 32) : State := { s with v := zext64 x }

/-- A 64-bit result takes all of V (R36). -/
def State.setValue64 (s : State) (x : BitVec 64) : State := { s with v := x }

/-- The first `n` words of WBUF, read in index order. -/
def State.words (s : State) (n : Nat) : List Word := (List.range n).map fun k => s.wbufRead k k

end Sys2Proof.Machine
end

