-- ==== Sys2Proof/Machine/Crc.lean ====
section
/-! DEFINITION. The CRC16 Engine (40_crc16.md): the bit-by-bit reference, the table step and the range function,
and the meanings of CRCCALC and CRCVAL. -/

namespace Sys2Proof.Machine

/-- One conditional shift step of R111. -/
def shiftStep (c : BitVec 16) : BitVec 16 :=
  if c.getLsbD 0 then (c >>> 1) ^^^ Config.crcPoly else c >>> 1

/-- `n` shift steps. -/
def shiftSteps : Nat → BitVec 16 → BitVec 16
  | 0, c => c
  | n + 1, c => shiftSteps n (shiftStep c)

/-- `T16(x)` of R112: eight shift steps from the byte zero-extended. -/
def t16 (x : Byte) : BitVec 16 := shiftSteps 8 (x.setWidth 16)

/-- One byte of R111: the byte XORed into the low byte, then eight shift steps. -/
def crcByte (c : BitVec 16) (b : Byte) : BitVec 16 := shiftSteps 8 (c ^^^ b.setWidth 16)

/-- `crc_bits` of R111, the reference the table form is held to. -/
def crcBits (bs : List Byte) : BitVec 16 := bs.foldl crcByte Config.crcInit

/-- The hidden working values of a running checksum (10_state.md R39): the two checksum bytes and the loop
index. They live inside one command's step and nowhere else [log 7]. -/
structure Working where
  lo : Byte
  hi : Byte
  i : Nat
deriving DecidableEq, Repr

/-- `lo = hi = 0xFF`, `i = 0` (R114; the two bytes of CRC_INIT). -/
def Working.start : Working := ⟨lowByte Config.crcInit, highByte Config.crcInit, 0⟩

/-- The checksum the working values stand for, `(hi << 8) | lo` (R62, R114). -/
def Working.packed (w : Working) : BitVec 16 := packWord w.hi w.lo

/-- `crc_step` of R113, as the pair (lo', hi'). -/
def crcStep (lo hi b : Byte) : Byte × Byte := (hi ^^^ tlo (lo ^^^ b), thi (lo ^^^ b))

/-- One position of R114: index `a + i` is read if it is below `len` and skipped otherwise; `i` advances. `read k j`
is the byte the `k`-th read sees in cell `j`. -/
def Working.visit (read : Nat → Nat → Byte) (a len : Nat) (w : Working) : Working :=
  if a + w.i < len then
    let p := crcStep w.lo w.hi (read w.i (a + w.i))
    ⟨p.1, p.2, w.i + 1⟩
  else ⟨w.lo, w.hi, w.i + 1⟩

/-- `n` positions of R114; the first argument is the count still to do (R39). -/
def crcLoop (read : Nat → Nat → Byte) (a len : Nat) : Nat → Working → Working
  | 0, w => w
  | n + 1, w => crcLoop read a len n (w.visit read a len)

/-- `crc_range(a, n, len)` of R114. -/
def crcRange (read : Nat → Nat → Byte) (a n len : Nat) : BitVec 16 :=
  (crcLoop read a len n Working.start).packed

/-- CRCCALC (R115): the checksum of N positions from A, skipping those at or beyond BUFLEN. -/
def execCrccalc (s : State) : Host.Outcome State Fault Refusal :=
  .next { s with crc := crcRange s.bufRead s.start s.count s.bufBound }.finish

/-- The recomputed checksum of CRCVAL: from index 0 over L - 2 bytes (R117). BUF read 0 was the unit id's. -/
def State.frameCrc (s : State) : BitVec 16 :=
  crcRange (fun k i => s.bufRead (k + 1) i) 0 (s.count - 2) s.bufBound

/-- The two trailing bytes are the checksum, low byte first (R63, R117). They are the BUF reads after the unit id
and the L - 2 bytes. -/
def State.trailerMatches (s : State) : Bool :=
  decide (s.bufRead (s.count - 1) (s.count - 2) = lowByte s.frameCrc) &&
    decide (s.bufRead s.count (s.count - 1) = highByte s.frameCrc)

/-- The unit id, BUF[0], is outside 1 to 247 (R117). -/
def State.unitIdOutside (s : State) : Bool :=
  decide ((s.bufRead 0 0).toNat < Config.unitMin) || decide (Config.unitMax < (s.bufRead 0 0).toNat)

/-- CRCVAL (R117), its tests in the order TooShort, BoundsError, UnitIdRange, CRCMismatch (R178). -/
def execCrcval (s : State) : Host.Outcome State Fault Refusal :=
  if s.count < Config.frameMin then .next (s.answer .tooShort)
  else if s.bufBound < s.count then .next (s.raise .boundsError)
  else if s.unitIdOutside then .next (s.answer .unitIdRange)
  else .next ({ s with crc := s.frameCrc }.answer (if s.trailerMatches then .none else .crcMismatch))

end Sys2Proof.Machine
end

