-- ==== Sys2Proof/Machine/Numeric.lean ====
section
/-! DEFINITION. The eight numeric conversions of the Register Codec (41_word_order.md). The integer and the
floating-point command of a size move the same bits (R131): each is its own definition over one operation. -/

namespace Sys2Proof.Machine

/-- `combine` of R132 for two words. -/
def combine2 (order : WordOrder) (w0 w1 : Word) : BitVec 32 :=
  match order with
  | .lowWordFirst => w1 ++ w0
  | .highWordFirst => w0 ++ w1

/-- `combine` of R132 for four words. -/
def combine4 (order : WordOrder) (w0 w1 w2 w3 : Word) : BitVec 64 :=
  match order with
  | .lowWordFirst => w3 ++ w2 ++ w1 ++ w0
  | .highWordFirst => w0 ++ w1 ++ w2 ++ w3

/-- `split` of R132 into two words. -/
def split2 (order : WordOrder) (v : BitVec 32) : List Word :=
  match order with
  | .lowWordFirst => [v.extractLsb' 0 16, v.extractLsb' 16 16]
  | .highWordFirst => [v.extractLsb' 16 16, v.extractLsb' 0 16]

/-- `split` of R132 into four words. -/
def split4 (order : WordOrder) (v : BitVec 64) : List Word :=
  match order with
  | .lowWordFirst => [v.extractLsb' 0 16, v.extractLsb' 16 16, v.extractLsb' 32 16, v.extractLsb' 48 16]
  | .highWordFirst => [v.extractLsb' 48 16, v.extractLsb' 32 16, v.extractLsb' 16 16, v.extractLsb' 0 16]

/-- Two words of WBUF into a 32-bit pattern of V; ArityError unless WCNT = 2 (R133, R143). -/
def State.toValue32 (s : State) : State :=
  if s.wordCount = 2 then (s.setValue32 (combine2 s.order (s.wbufRead 0 0) (s.wbufRead 1 1))).finish
  else s.raise .arityError

/-- Four words of WBUF into V; ArityError unless WCNT = 4 (R134, R143). -/
def State.toValue64 (s : State) : State :=
  if s.wordCount = 4 then
    (s.setValue64
      (combine4 s.order (s.wbufRead 0 0) (s.wbufRead 1 1) (s.wbufRead 2 2) (s.wbufRead 3 3))).finish
  else s.raise .arityError

/-- V[31:0] into WBUF[0..1], WCNT = 2 (R137). -/
def State.toWords2 (s : State) : State := (s.storeWords (split2 s.order s.value32)).finish

/-- V into WBUF[0..3], WCNT = 4 (R138). -/
def State.toWords4 (s : State) : State := (s.storeWords (split4 s.order s.v)).finish

/-- R2I32 (R133). -/
def execR2i32 (s : State) : Host.Outcome State Fault Refusal := .next s.toValue32

/-- R2I64 (R134). -/
def execR2i64 (s : State) : Host.Outcome State Fault Refusal := .next s.toValue64

/-- R2F32 (R135). -/
def execR2f32 (s : State) : Host.Outcome State Fault Refusal := .next s.toValue32

/-- R2F64 (R136). -/
def execR2f64 (s : State) : Host.Outcome State Fault Refusal := .next s.toValue64

/-- I322R (R137). -/
def execI322r (s : State) : Host.Outcome State Fault Refusal := .next s.toWords2

/-- I642R (R138). -/
def execI642r (s : State) : Host.Outcome State Fault Refusal := .next s.toWords4

/-- F322R (R139). -/
def execF322r (s : State) : Host.Outcome State Fault Refusal := .next s.toWords2

/-- F642R (R140). -/
def execF642r (s : State) : Host.Outcome State Fault Refusal := .next s.toWords4

end Sys2Proof.Machine
end

