-- ==== Sys2Proof/Machine/Strings.lean ====
section
/-! DEFINITION. The string conversions of the Register Codec (42_string.md): two bytes per word, low byte first
(20_memory.md R64); CFG.ORDER is not read (R150). -/

namespace Sys2Proof.Machine

/-- Byte `j` of R2STR's result: the low byte of word A + j div 2 when `j` is even, its high byte when odd (R151). -/
def State.stringByte (s : State) (j : Nat) : Byte :=
  let w := s.wbufRead j (s.start + j / 2)
  if j % 2 = 0 then lowByte w else highByte w

/-- The bytes R2STR writes (R151). -/
def State.stringBytes (s : State) : List Byte := (List.range s.count).map s.stringByte

/-- R2STR (R151). -/
def execR2str (s : State) : Host.Outcome State Fault Refusal :=
  if s.wordCount < s.start + ceil2 s.count ∨ s.params.bufCap < s.count then .next (s.raise .boundsError)
  else .next { s.storeBytes s.stringBytes with buflen := s.n }.finish

/-- Word `k` of STR2R's result: byte 2k low, byte 2k+1 high, and 0 where the string has ended (R153). -/
def State.stringWord (s : State) (k : Nat) : Word :=
  packWord (if 2 * k + 1 < s.bufBound then s.bufRead (2 * k + 1) (2 * k + 1) else 0x00#8) (s.bufRead (2 * k) (2 * k))

/-- The words STR2R writes (R153). -/
def State.stringWords (s : State) : List Word := (List.range (ceil2 s.bufBound)).map s.stringWord

/-- STR2R (R153). -/
def execStr2r (s : State) : Host.Outcome State Fault Refusal :=
  if s.params.wcap < ceil2 s.bufBound then .next (s.raise .boundsError)
  else .next (s.storeWords s.stringWords).finish

end Sys2Proof.Machine
end

