-- ==== Sys2Proof/Machine/Wire.lean ====
section
/-! DEFINITION. The auxiliary word commands LDWBE and WIDEN (43_wire_aux.md). -/

namespace Sys2Proof.Machine

/-- Word `k` of LDWBE's result: the byte at the lower index is the high byte (R161, 20_memory.md R65). -/
def State.wireWord (s : State) (k : Nat) : Word :=
  packWord (s.bufRead (2 * k) (s.start + 2 * k)) (s.bufRead (2 * k + 1) (s.start + 2 * k + 1))

/-- The words LDWBE writes (R161). -/
def State.wireWords (s : State) : List Word := (List.range s.count).map s.wireWord

/-- LDWBE (R161). -/
def execLdwbe (s : State) : Host.Outcome State Fault Refusal :=
  if s.bufBound < s.start + 2 * s.count ∨ s.params.wcap < s.count then .next (s.raise .boundsError)
  else .next (s.storeWords s.wireWords).finish

/-- WIDEN (R163). -/
def execWiden (s : State) : Host.Outcome State Fault Refusal :=
  if s.wordCount ≤ s.start then .next (s.raise .boundsError)
  else .next (s.setValue32 (sext32 (s.wbufRead 0 s.start))).finish

end Sys2Proof.Machine
end

