-- ==== Sys2Proof/Machine/Dispatch.lean ====
section
/-! DEFINITION. One arm per command (30_encoding.md R92), each a direct call of its meaning. -/

namespace Sys2Proof.Machine

def exec (i : Instr) (s : State) : Host.Outcome State Fault Refusal :=
  match i with
  | .crccalc => Sys2Proof.Machine.execCrccalc s
  | .crcval => Sys2Proof.Machine.execCrcval s
  | .r2i32 => Sys2Proof.Machine.execR2i32 s
  | .r2i64 => Sys2Proof.Machine.execR2i64 s
  | .r2f32 => Sys2Proof.Machine.execR2f32 s
  | .r2f64 => Sys2Proof.Machine.execR2f64 s
  | .i322r => Sys2Proof.Machine.execI322r s
  | .i642r => Sys2Proof.Machine.execI642r s
  | .f322r => Sys2Proof.Machine.execF322r s
  | .f642r => Sys2Proof.Machine.execF642r s
  | .r2str => Sys2Proof.Machine.execR2str s
  | .str2r => Sys2Proof.Machine.execStr2r s
  | .ldwbe => Sys2Proof.Machine.execLdwbe s
  | .widen => Sys2Proof.Machine.execWiden s

end Sys2Proof.Machine
end

