-- ==== Sys2Proof/Machine/HostAccess.lean ====
section
/-! DEFINITION. The host primitives of 00_scope.md R14 with their preconditions (20_memory.md R70 to R74,
70_reset_and_hazards.md R210). -/

namespace Sys2Proof.Machine

/-- What a register reads as, zero-extended to 64 bits (10_state.md R21): CMD reads 0. -/
def State.readReg (s : State) : Reg → BitVec 64
  | .cmd => 0#64
  | .status => s.status.toByte.setWidth 64
  | .cfg => s.cfgByte.setWidth 64
  | .a => s.a.setWidth 64
  | .n => s.n.setWidth 64
  | .buflen => s.buflen.setWidth 64
  | .wcnt => s.wcnt.setWidth 64
  | .crc => s.crc.setWidth 64
  | .v => s.v

/-- The effect of a write that fits the register (R21, R24, R30, R70): CMD starts a command, STATUS and CRC ignore
it, CFG keeps bit 0, a length above its capacity is refused (R72), the others store the value. -/
def State.writeReg (s : State) (r : Reg) (value : Nat) : Host.Outcome State Fault Refusal :=
  match r with
  | .cmd => .next (s.issue (BitVec.ofNat 8 value))
  | .status => .next s
  | .cfg => .next { s with order := WordOrder.ofBit (value.testBit 0) }
  | .a => .next { s with a := BitVec.ofNat 32 value }
  | .n => .next { s with n := BitVec.ofNat 16 value }
  | .buflen => if value ≤ s.params.bufCap then .next { s with buflen := BitVec.ofNat 16 value } else .refused .buflenAboveCapacity
  | .wcnt => if value ≤ s.params.wcap then .next { s with wcnt := BitVec.ofNat 16 value } else .refused .wcntAboveCapacity
  | .crc => .next s
  | .v => .next { s with v := BitVec.ofNat 64 value }

/-- HostReadReg (R71): the register's number and exactly its width. -/
def hostReadReg (r width : Nat) (s : State) : Host.Outcome State Fault Refusal :=
  match Reg.ofNumber r with
  | none => .refused .noSuchRegister
  | some reg =>
    if width = reg.width then .next (s.observe (.reg reg (s.readReg reg))) else .refused .wrongWidth

/-- HostWriteReg (R71, R72): the number, the width, and a value that fits. -/
def hostWriteReg (r width value : Nat) (s : State) : Host.Outcome State Fault Refusal :=
  match Reg.ofNumber r with
  | none => .refused .noSuchRegister
  | some reg =>
    if width = reg.width then
      if value < 2 ^ reg.width then s.writeReg reg value else .refused .valueTooWide
    else .refused .wrongWidth

/-- HostReadBuf (R73): any cell inside the capacity, whatever BUFLEN. -/
def hostReadBuf (i : Nat) (s : State) : Host.Outcome State Fault Refusal :=
  if i < s.params.bufCap then .next (s.observe (.byte i (s.bufRead 0 i))) else .refused .bufIndexOutside

/-- HostWriteBuf (R73): BUFLEN does not change. -/
def hostWriteBuf (i : Nat) (b : Byte) (s : State) : Host.Outcome State Fault Refusal :=
  if i < s.params.bufCap then .next { s with buf := s.buf.write i b } else .refused .bufIndexOutside

/-- HostReadWord (R73): any cell inside the capacity, whatever WCNT. -/
def hostReadWord (k : Nat) (s : State) : Host.Outcome State Fault Refusal :=
  if k < s.params.wcap then .next (s.observe (.word k (s.wbufRead 0 k))) else .refused .wbufIndexOutside

/-- HostWriteWord (R73): WCNT does not change. -/
def hostWriteWord (k : Nat) (w : Word) (s : State) : Host.Outcome State Fault Refusal :=
  if k < s.params.wcap then .next { s with wbuf := s.wbuf.write k w } else .refused .wbufIndexOutside

/-- A primitive whose BUSY precondition holds. -/
def access (p : Primitive) (s : State) : Host.Outcome State Fault Refusal :=
  match p with
  | .readReg r width => hostReadReg r width s
  | .writeReg r width value => hostWriteReg r width value s
  | .readBuf i => hostReadBuf i s
  | .writeBuf i b => hostWriteBuf i b s
  | .readWord k => hostReadWord k s
  | .writeWord k w => hostWriteWord k w s
  | .reset => .next s.hostReset

/-- The host performs a primitive: while BUSY only a STATUS read or a reset is inside the contract (R210). -/
def perform (p : Primitive) (s : State) : Host.Outcome State Fault Refusal :=
  if s.status.busy && !p.allowedWhileBusy then .fault .accessWhileBusy else access p s

end Sys2Proof.Machine
end

