-- ==== Sys2Proof/Machine/Script.lean ====
section
/-! DEFINITION. Scripts (30_encoding.md R100 to R102): the textual host programs of the spec as data, and the turns
they expand to. -/

namespace Sys2Proof.Machine

/-- The registers the line `WR reg, value` may name (R100). -/
inductive WrReg where
  | cfg | a | n | buflen | wcnt | v
deriving DecidableEq, Repr

/-- The block register a `WR` line names. -/
def WrReg.reg : WrReg → Reg
  | .cfg => .cfg
  | .a => .a
  | .n => .n
  | .buflen => .buflen
  | .wcnt => .wcnt
  | .v => .v

/-- One line of a script: the lines of R100 and the pseudo-instructions of R101, and `wrCmd` for the line
"WR CMD, 00 ; reserved code, then poll STATUS until BUSY = 0" of 95_test_vectors.md P5. A command line carries how many
STATUS reads find BUSY = 1 before the command completes: the open LATENCY (R220). -/
inductive ScriptLine where
  | wr (r : WrReg) (value : Nat)
  | rd (r : Reg)
  | wb (i : Nat) (b : Byte)
  | rb (i : Nat)
  | ww (k : Nat) (w : Word)
  | rw (k : Nat)
  | cmd (i : Instr) (busyPolls : Nat)
  | wrCmd (c : Byte) (busyPolls : Nat)
  | reset
  | loadb (bs : List Byte)
  | loadw (ws : List Word)
  | crc16 (start count busyPolls : Nat)
  | check (length busyPolls : Nat)
  | order (o : WordOrder)
deriving DecidableEq, Repr

/-- The register write a `WR` line (R100) or the CMD write of a `CMD` line performs. -/
def wrEvent (r : Reg) (value : Nat) : Event := .host (.writeReg r.number r.width value)

/-- `RD reg` (R100). -/
def rdEvent (r : Reg) : Event := .host (.readReg r.number r.width)

/-- `CMD mnemonic` (R100): the CMD write, then STATUS reads until BUSY = 0. -/
def cmdEvents (c : Byte) (busyPolls : Nat) : List Event :=
  wrEvent .cmd c.toNat :: (List.replicate busyPolls (rdEvent .status) ++ [.block, rdEvent .status])

/-- `WB i, b0`, `WB i+1, b1`, ... (R101). -/
def wbEvents : Nat → List Byte → List Event
  | _, [] => []
  | i, b :: bs => .host (.writeBuf i b) :: wbEvents (i + 1) bs

/-- `WW k, w0`, `WW k+1, w1`, ... (R101). -/
def wwEvents : Nat → List Word → List Event
  | _, [] => []
  | k, w :: ws => .host (.writeWord k w) :: wwEvents (k + 1) ws

/-- The turns of one line (R100, R101). -/
def ScriptLine.expand : ScriptLine → List Event
  | .wr r value => [wrEvent r.reg value]
  | .rd r => [rdEvent r]
  | .wb i b => [.host (.writeBuf i b)]
  | .rb i => [.host (.readBuf i)]
  | .ww k w => [.host (.writeWord k w)]
  | .rw k => [.host (.readWord k)]
  | .cmd i polls => cmdEvents (encode i) polls
  | .wrCmd c polls => cmdEvents c polls
  | .reset => [.host .reset]
  | .loadb bs => wbEvents 0 bs ++ [wrEvent .buflen bs.length]
  | .loadw ws => wwEvents 0 ws ++ [wrEvent .wcnt ws.length]
  | .crc16 start count polls => wrEvent .a start :: wrEvent .n count :: cmdEvents (encode .crccalc) polls
  | .check length polls => wrEvent .n length :: cmdEvents (encode .crcval) polls
  | .order .lowWordFirst => [wrEvent .cfg 0]
  | .order .highWordFirst => [wrEvent .cfg 1]

/-- A script is a sequence of host primitives and nothing else (R102). -/
def expandScript (ls : List ScriptLine) : List Event := ls.flatMap ScriptLine.expand

/-- Give the host a program: its turns come after those already there [log 4]. -/
def State.load (s : State) (ls : List ScriptLine) : State := { s with events := s.events ++ expandScript ls }

end Sys2Proof.Machine
end

