-- ==== Sys2Proof/Machine/Step.lean ====
section
/-! DEFINITION. One step of the machine: the next turn on the list, the host's or the block's. -/

namespace Sys2Proof.Machine

/-- A reserved code completes with ERR = IllegalCommand and changes nothing else (30_encoding.md R94, R176). -/
def runDecoded (d : Decoded) (s : State) : Host.Outcome State Fault Refusal :=
  match d with
  | .command i => exec i s
  | .illegalCommand => .next (s.raise .illegalCommand)

/-- The block's own turn: a running command performs its completion event (10_state.md R26); an idle block waits
for the next CMD write (30_encoding.md R96). -/
def blockTurn (s : State) : Host.Outcome State Fault Refusal :=
  if s.status.busy then runDecoded (decode s.cmd) s else .next s

/-- One step. With no turn listed a running command still completes (70_reset_and_hazards.md R221), and an idle
block stays as it is [log 13]. -/
def step (s : State) : Host.Outcome State Fault Refusal :=
  match s.events with
  | [] => if s.status.busy then blockTurn s.tick else .next s
  | .block :: _ => blockTurn s.tick
  | .host p :: _ => perform p s.tick

/-- `s` with the command word `w` just written to CMD and the block's turn next, so that the next step runs it.
A command is 8 bits (30_encoding.md R95) [log 4]. -/
def State.withFetchWord (s : State) (_nbits w : Nat) : State :=
  { s.issue (BitVec.ofNat 8 w) with events := .block :: s.events }

end Sys2Proof.Machine
end

