-- ==== Sys2Proof/WellFormed.lean ====
section
/-! DEFINITION. What is well formed: parameters (00_scope.md R10) and host primitives (20_memory.md R71 to R73).
A command has no operand field (30_encoding.md R90, R93), so every `Instr` is well formed. -/

namespace Sys2Proof

/-- Every command is well formed: it holds no operand (R93), and a word that is none of the 14 codes is
refused by the decoder (R94), so it is no term of `Instr`. -/
def Instr.wf (_ : Instr) : Bool := true

/-- The constraints R10 puts on the capacities. -/
def Config.Params.wf (p : Config.Params) : Bool :=
  decide (6 ≤ p.bufCap) && decide (p.bufCap ≤ 65535) && decide (4 ≤ p.wcap) && decide (p.wcap ≤ 65535)

/-- R72: the two registers whose written value is bounded by a capacity. -/
def valueWithinCapacity (p : Config.Params) (r : Machine.Reg) (value : Nat) : Bool :=
  match r with
  | .buflen => decide (value ≤ p.bufCap)
  | .wcnt => decide (value ≤ p.wcap)
  | .cmd => true
  | .status => true
  | .cfg => true
  | .a => true
  | .n => true
  | .crc => true
  | .v => true

/-- The preconditions of R71 to R73: those that do not speak of BUSY. -/
def Machine.Primitive.wf (p : Config.Params) : Machine.Primitive → Bool
  | .readReg r width =>
    match Machine.Reg.ofNumber r with
    | some reg => width == reg.width
    | none => false
  | .writeReg r width value =>
    match Machine.Reg.ofNumber r with
    | some reg => width == reg.width && decide (value < 2 ^ reg.width) && valueWithinCapacity p reg value
    | none => false
  | .readBuf i => decide (i < p.bufCap)
  | .writeBuf i _ => decide (i < p.bufCap)
  | .readWord k => decide (k < p.wcap)
  | .writeWord k _ => decide (k < p.wcap)
  | .reset => true

end Sys2Proof
end

