-- ==== Sys2Proof/Safety.lean ====
section
/-! DEFINITION. The terms claims use: the invariant of 10_state.md R42, written buffers (R44), and a host that keeps
the contract (20_memory.md R70 to R73, 70_reset_and_hazards.md R210). -/

namespace Sys2Proof.Machine

/-- The invariants of R42 that the types do not carry, the constraints of R10, and the canonical form of the
buffers with every index inside the capacity (R73). -/
abbrev State.Inv (s : State) : Prop :=
  s.params.wf = true ∧ s.buflen.toNat ≤ s.params.bufCap ∧ s.wcnt.toNat ≤ s.params.wcap ∧
    (s.status.valid = true → s.status.reason = .none) ∧
    s.buf.wf = true ∧ s.buf.below s.params.bufCap = true ∧
    s.wbuf.wf = true ∧ s.wbuf.below s.params.wcap = true

/-- Every cell of BUF below BUFLEN has been written since reset (R44). -/
abbrev State.BufWritten (s : State) : Prop := ∀ i < s.buflen.toNat, (s.buf.read? i).isSome = true

/-- Every cell of WBUF below WCNT has been written since reset (R44). -/
abbrev State.WbufWritten (s : State) : Prop := ∀ k < s.wcnt.toNat, (s.wbuf.read? k).isSome = true

/-- Every cell below the two lengths has been written since reset: the host that "never meets an unspecified
value" (R44). -/
abbrev State.WrittenBelowLengths (s : State) : Prop := s.BufWritten ∧ s.WbufWritten

/-- `n` steps, stopping at the first fault or refusal: the host's run of the machine on the concrete types
(Laws/Step.lean proves it equal to `core.run`). -/
def runSteps : Nat → State → Host.Outcome State Fault Refusal
  | 0, s => .next s
  | n + 1, s =>
    match step s with
    | .next t => runSteps n t
    | .fault r => .fault r
    | .refused r => .refused r

/-- BUSY after a primitive performed with that BUSY: a CMD write sets it, a reset clears it. -/
def busyAfter (busy : Bool) : Primitive → Bool
  | .writeReg r _ _ => busy || r == Reg.cmd.number
  | .reset => false
  | .readReg _ _ => busy
  | .readBuf _ => busy
  | .writeBuf _ _ => busy
  | .readWord _ => busy
  | .writeWord _ _ => busy

/-- A list of turns in which the host keeps the contract, given BUSY before the first: every primitive is well
formed, and while BUSY the host reads STATUS or resets and nothing else. -/
def obeys (p : Config.Params) : Bool → List Event → Bool
  | _, [] => true
  | _, .block :: es => obeys p false es
  | busy, .host h :: es => h.wf p && (!busy || h.allowedWhileBusy) && obeys p (busyAfter busy h) es

/-- A state whose remaining turns keep the contract. -/
abbrev State.HostObeys (s : State) : Prop := obeys s.params s.status.busy s.events = true

end Sys2Proof.Machine
end

