-- ==== Sys2Proof/Certificates/Slice0/Obligations.lean ====
section
/-! DEFINITION. The statements about the model. They speak of the block registers as the rules do: `s.n.toNat` is N,
`s.bufRead k i` is what the `k`-th BUF read of the command sees in cell `i` (the stored byte, or a free value for a
cell never written since reset). -/

open Sys2Proof Sys2Proof.Machine

namespace Sys2Proof.Claims

/-- STATUS after a completion with code `e` that leaves VALID and REASON alone (10_state.md R26, R27, R29). -/
def done (s : State) (e : Err) : Status := { s.status with busy := false, err := e }

/-- The next turn is the block's: it stands first on the list, or the list is empty. -/
def blockIsNext (s : State) : Prop := s.events = [] ∨ ∃ es, s.events = .block :: es

/-- The state a step works on: the turn taken off, free values of its own. -/
def ticked (s : State) : State := { s with events := s.events.tail, draws := s.draws + 1 }

/-- The bytes a checksum over (a, n) visits: positions a .. min(a + n, BUFLEN) - 1, in order, seen by the BUF reads
from number `k` on (40_crc16.md R116 (b)). -/
def visited (s : State) (k a n : Nat) : List Byte :=
  (List.range (min n (s.buflen.toNat - a))).map fun i => s.bufRead (k + i) (a + i)

/-- How many words from index 0 a command stores when it performs its operation (10_state.md R49). -/
def storedWords (i : Instr) (s : State) : Nat :=
  match i with
  | .i322r | .f322r => 2
  | .i642r | .f642r => 4
  | .str2r => (s.buflen.toNat + 1) / 2
  | .ldwbe => s.n.toNat
  | .crccalc | .crcval | .r2i32 | .r2i64 | .r2f32 | .r2f64 | .r2str | .widen => 0

/-- How many bytes from index 0 a command stores when it performs its operation (10_state.md R49). -/
def storedBytes (i : Instr) (s : State) : Nat :=
  match i with
  | .r2str => s.n.toNat
  | .crccalc | .crcval | .r2i32 | .r2i64 | .r2f32 | .r2f64 | .i322r | .i642r | .f322r | .f642r | .str2r | .ldwbe
  | .widen => 0

/-- The error a command raises, None when it performs its operation (60_exceptions.md R171, R174, R175). -/
def errorOf (i : Instr) (s : State) : Err :=
  match i with
  | .r2i32 | .r2f32 => if s.wcnt.toNat = 2 then .none else .arityError
  | .r2i64 | .r2f64 => if s.wcnt.toNat = 4 then .none else .arityError
  | .crcval => if 6 ≤ s.n.toNat ∧ s.buflen.toNat < s.n.toNat then .boundsError else .none
  | .r2str =>
    if s.wcnt.toNat < s.a.toNat + (s.n.toNat + 1) / 2 ∨ s.params.bufCap < s.n.toNat then .boundsError else .none
  | .str2r => if s.params.wcap < (s.buflen.toNat + 1) / 2 then .boundsError else .none
  | .ldwbe =>
    if s.buflen.toNat < s.a.toNat + 2 * s.n.toNat ∨ s.params.wcap < s.n.toNat then .boundsError else .none
  | .widen => if s.wcnt.toNat ≤ s.a.toNat then .boundsError else .none
  | .crccalc | .i322r | .i642r | .f322r | .f642r => .none

/-- The reserved command codes, range by range (30_encoding.md R94). -/
def reservedCode (c : Nat) : Prop :=
  c ≤ 0x0F ∨ (0x12 ≤ c ∧ c ≤ 0x1F) ∨ (0x28 ≤ c ∧ c ≤ 0x2F) ∨ (0x32 ≤ c ∧ c ≤ 0x3F) ∨ (0x42 ≤ c ∧ c ≤ 0x4F) ∨
    (0x50 ≤ c ∧ c ≤ 0xFF)

/-- The code, mnemonic and format columns of R92. -/
def commandTable : List (Byte × Instr × Format) :=
  [ (0b00010000#8, .crccalc, .cr),
    (0b00010001#8, .crcval, .cr),
    (0b00100000#8, .r2i32, .cv),
    (0b00100001#8, .r2i64, .cv),
    (0b00100010#8, .r2f32, .cv),
    (0b00100011#8, .r2f64, .cv),
    (0b00100100#8, .i322r, .cv),
    (0b00100101#8, .i642r, .cv),
    (0b00100110#8, .f322r, .cv),
    (0b00100111#8, .f642r, .cv),
    (0b00110000#8, .r2str, .st),
    (0b00110001#8, .str2r, .st),
    (0b01000000#8, .ldwbe, .ax),
    (0b01000001#8, .widen, .ax) ]

/-- The registers of R43, as the host reads them. -/
def registersAtReset (t : State) : Prop :=
  t.status = ⟨false, false, .none, .none⟩ ∧ t.readReg .status = 0x00 ∧ t.readReg .cfg = 0x00 ∧
    t.order = .lowWordFirst ∧ t.readReg .a = 0 ∧ t.readReg .n = 0 ∧ t.readReg .buflen = 0 ∧ t.readReg .wcnt = 0 ∧
    t.readReg .crc = 0xFFFF ∧ t.readReg .v = 0

/-- The number and width columns of 10_state.md R21. -/
def registerTable : List (Reg × Nat × Nat) :=
  [ (.cmd, 0, 8), (.status, 1, 8), (.cfg, 2, 8), (.a, 3, 32), (.n, 4, 16), (.buflen, 5, 16), (.wcnt, 6, 16),
    (.crc, 7, 16), (.v, 8, 64) ]

/-- The commands that write V when they end without an error (10_state.md R49). -/
def writesV : List Instr := [.r2i32, .r2i64, .r2f32, .r2f64, .widen]

/-- The commands that write WCNT when they end without an error (R49). -/
def writesWcnt : List Instr := [.i322r, .i642r, .f322r, .f642r, .str2r, .ldwbe]

/-- CRC is written by this command on its way from `s` to `t`: CRCCALC always, CRCVAL when it reached the recomputation
(R49, 40_crc16.md R117). -/
def crcWritten (i : Instr) (t : State) : Prop :=
  i = .crccalc ∨ (i = .crcval ∧ t.status.err = .none ∧ (t.status.reason = .none ∨ t.status.reason = .crcMismatch))

/-- No cell of either buffer has a value a claim may use: each reads as never written (R44). -/
def buffersUnspecified (t : State) : Prop := (∀ i, t.buf.read? i = none) ∧ ∀ k, t.wbuf.read? k = none

/-- The frame is valid: the trailing bytes are the checksum `c`, low byte first (40_crc16.md R117). -/
def trailerIs (s : State) (c : BitVec 16) : Prop :=
  s.bufRead (s.n.toNat - 1) (s.n.toNat - 2) = c.extractLsb' 0 8 ∧
    s.bufRead s.n.toNat (s.n.toNat - 1) = c.extractLsb' 8 8

/-- The in-flight state after a `CMD i` line's write and `k` STATUS reads, with the completion still to come. -/
def inFlight (s : State) (i : Instr) (k : Nat) (rest : List Event) : State :=
  { s with cmd := encode i, status := { s.status with busy := true }, events := rest, draws := s.draws + k + 2,
           observed := List.replicate k (.reg .status (({ s.status with busy := true } : Status).toByte.setWidth 64)) ++
             s.observed }

end Sys2Proof.Claims

open Sys2Proof.Claims

/-! ### Encoding -/

/-- R92: every row decodes to its command, is that command's encoding and has its format; every other value of the
command word is reserved. -/
def Obligations.DecodeReadsTheCommandTable : Prop :=
  (∀ row ∈ commandTable, decode row.1 = .command row.2.1 ∧ encode row.2.1 = row.1 ∧ formatOf row.2.1 = row.2.2) ∧
  ∀ c : Byte, decode c = .illegalCommand ↔ ∀ row ∈ commandTable, c ≠ row.1

/-- Decode and encode are inverse, in both directions. -/
def Obligations.DecodeEncodeAgree : Prop :=
  ∀ (i : Instr) (c : Byte), decode (encode i) = .command i ∧ (decode c = .command i → encode i = c)

/-! ### Reset -/

/-- R43: the registers of the state after reset, and of the state HostReset gives from any state. -/
def Obligations.ResetStateHoldsTheStatedValues : Prop :=
  registersAtReset State.reset ∧
  ∀ (s : State) (es : List Event), s.events = .host .reset :: es → ∃ t, step s = .next t ∧ registersAtReset t

/-- HostReset from every state, busy or not: the running command leaves no result, BUSY is 0, no buffer cell keeps a
value (70_reset_and_hazards.md R200, R201). What stays is outside the block: the capacities, the turns to come, the
host's observations; that they stay is the model's choice [log 16]. -/
def Obligations.HostResetGivesTheResetState : Prop :=
  ∀ (s : State) (es : List Event), s.events = .host .reset :: es →
    ∃ t, step s = .next t ∧ registersAtReset t ∧ buffersUnspecified t ∧ t.status.busy = false ∧ t.params = s.params ∧
      t.events = es ∧ t.observed = s.observed

/-- The invariant holds after reset, whose capacities are the model's choice [log 1]. -/
def Obligations.ResetMeetsTheInvariant : Prop := State.reset.Inv

/-- Every step keeps the invariant of 10_state.md R42, the constraints of R10 and the canonical form of both buffers, which
is the model's [log 12]. -/
def Obligations.StepKeepsTheInvariant : Prop :=
  ∀ s t : State, s.Inv → step s = .next t → t.Inv

/-! ### The step -/

/-- The block's turn runs the decoded command: step is exec of it, on the state with the turn taken off the list. That a
running command also completes when no turn is listed is the model's choice [log 13]. -/
def Obligations.StepRunsTheDecodedCommand : Prop :=
  ∀ (s : State) (i : Instr), s.status.busy = true → blockIsNext s → decode s.cmd = .command i →
    step s = exec i (ticked s)

/-- An idle CMD write sets BUSY and puts the code in flight, and changes nothing else of the block (10_state.md R24). The
code kept in `cmd` is the model's [log 11]. -/
def Obligations.CmdWriteStartsTheCommand : Prop :=
  ∀ (s : State) (c : Nat) (es : List Event), s.status.busy = false → c < 256 →
    s.events = .host (.writeReg 0 8 c) :: es →
    step s = .next { ticked s with cmd := BitVec.ofNat 8 c, status := { s.status with busy := true } }

/-- A `CMD` line of a script runs the command whatever the latency: after the CMD write, `k` STATUS reads that see BUSY,
the block's turn and a last STATUS read, the state is the command's result and the last read shows it. The schedule of
turns is the model's form of the open LATENCY [log 3]. -/
def Obligations.CommandLineRunsUnderEveryLatency : Prop :=
  ∀ (s t : State) (i : Instr) (k : Nat) (es : List Event), s.status.busy = false →
    s.events = cmdEvents (encode i) k ++ es →
    exec i (inFlight s i k (rdEvent .status :: es)) = .next t →
    runSteps (k + 3) s =
      .next { t with events := es, draws := t.draws + 1, observed := .reg .status (t.readReg .status) :: t.observed }

/-- R94, R176: the decoder is total on bytes with the reserved ranges of R94; a reserved code written to CMD starts a command that completes with IllegalCommand; no register,
buffer cell, VALID or REASON changes. -/
def Obligations.ReservedCodeCompletesIllegal : Prop :=
  (∀ c : Byte, decode c = .illegalCommand ↔ reservedCode c.toNat) ∧
  ∀ (s : State) (c : Nat) (es : List Event), s.status.busy = false → reservedCode c →
    s.events = .host (.writeReg 0 8 c) :: .block :: es →
    step s = .next { ticked s with cmd := BitVec.ofNat 8 c, status := { s.status with busy := true } } ∧
    runSteps 2 s =
      .next { s with cmd := BitVec.ofNat 8 c, status := done s .illegalCommand, events := es, draws := s.draws + 2 }

/-- With the block's turn next a running command reaches its completion event, whatever its code
(70_reset_and_hazards.md R221). That it does so also with no turn listed is the model's choice [log 13]. -/
def Obligations.EveryRunningCommandCompletes : Prop :=
  ∀ s : State, s.status.busy = true → blockIsNext s → ∃ t, step s = .next t ∧ t.status.busy = false

/-- An idle block waits (30_encoding.md R96): its turn changes no register, buffer cell or observation. That it has such
turns, and a step with no turn listed, is the model's choice [log 13]. -/
def Obligations.IdleBlockWaits : Prop :=
  ∀ s : State, s.status.busy = false → blockIsNext s →
    ∃ d, step s = .next { s with events := s.events.tail, draws := d }

/-! ### The host primitives -/

/-- What HostReadReg returns for each register, by its number and width of R21, idle or (STATUS alone) busy, with no side
effect on the block. The record of what was read is the model's [log 9]. -/
def Obligations.RegisterReadsReturnTheRegister : Prop :=
  ∀ (s : State) (r : Reg) (number width : Nat) (es : List Event), (r, number, width) ∈ registerTable →
    (s.status.busy = false ∨ r = .status) → s.events = .host (.readReg number width) :: es →
    step s = .next { ticked s with observed := .reg r (match r with
      | .cmd => 0#64
      | .status => s.status.toByte.setWidth 64
      | .cfg => if s.order = .highWordFirst then 1#64 else 0#64
      | .a => s.a.setWidth 64
      | .n => s.n.setWidth 64
      | .buflen => s.buflen.setWidth 64
      | .wcnt => s.wcnt.setWidth 64
      | .crc => s.crc.setWidth 64
      | .v => s.v) :: s.observed }

/-- The fields of the STATUS byte and of the CFG byte (10_state.md R25, R30), with the codes of REASON (R25) and ERR
(60_exceptions.md R171); CFG[7:1] reads 0. -/
def Obligations.StatusAndCfgBytesHaveTheirFields : Prop :=
  ∀ s : State,
    s.status.toByte.getLsbD 0 = s.status.busy ∧ s.status.toByte.getLsbD 1 = s.status.valid ∧
    s.status.toByte.extractLsb' 2 3 = s.status.reason.code ∧ s.status.toByte.extractLsb' 5 3 = s.status.err.code ∧
    s.status.reason.code =
      (match s.status.reason with | .none => 0#3 | .tooShort => 1#3 | .unitIdRange => 2#3 | .crcMismatch => 3#3) ∧
    s.status.err.code =
      (match s.status.err with | .none => 0#3 | .arityError => 1#3 | .boundsError => 2#3 | .illegalCommand => 3#3) ∧
    s.status.toByte.toNat = s.status.err.code.toNat * 32 + s.status.reason.code.toNat * 4 +
      s.status.valid.toNat * 2 + s.status.busy.toNat ∧
    s.cfgByte.extractLsb' 1 7 = 0#7 ∧ (s.cfgByte.getLsbD 0 = true ↔ s.order = .highWordFirst)

/-- An idle host write, by the register's number and width of 10_state.md R21, of a value that fits: the RW registers take it, CFG keeps bit 0, STATUS and CRC ignore it. -/
def Obligations.RegisterWritesStoreTheValue : Prop :=
  ∀ (s : State) (r : Reg) (number width x : Nat) (es : List Event), (r, number, width) ∈ registerTable →
    s.status.busy = false → r ≠ .cmd → x < 2 ^ width →
    (r = .buflen → x ≤ s.params.bufCap) → (r = .wcnt → x ≤ s.params.wcap) →
    s.events = .host (.writeReg number width x) :: es →
    step s = .next (match r with
      | .cmd => ticked s
      | .status => ticked s
      | .cfg => { ticked s with order := if x % 2 = 1 then .highWordFirst else .lowWordFirst }
      | .a => { ticked s with a := BitVec.ofNat 32 x }
      | .n => { ticked s with n := BitVec.ofNat 16 x }
      | .buflen => { ticked s with buflen := BitVec.ofNat 16 x }
      | .wcnt => { ticked s with wcnt := BitVec.ofNat 16 x }
      | .crc => ticked s
      | .v => { ticked s with v := BitVec.ofNat 64 x })

/-- A byte written is the byte read back; every other cell, both lengths and all registers keep their values. -/
def Obligations.BufWriteThenReadReturnsTheByte : Prop :=
  ∀ (s : State) (i : Nat) (b : Byte) (es : List Event), s.status.busy = false → i < s.params.bufCap →
    s.events = .host (.writeBuf i b) :: .host (.readBuf i) :: es →
    ∃ t, runSteps 2 s = .next t ∧ (∀ j, j ≠ i → t.buf.read? j = s.buf.read? j) ∧
      t = { s with buf := t.buf, observed := .byte i b :: s.observed, events := es, draws := s.draws + 2 }

/-- A word written is the word read back; every other cell, both lengths and all registers keep their values. -/
def Obligations.WordWriteThenReadReturnsTheWord : Prop :=
  ∀ (s : State) (k : Nat) (w : Word) (es : List Event), s.status.busy = false → k < s.params.wcap →
    s.events = .host (.writeWord k w) :: .host (.readWord k) :: es →
    ∃ t, runSteps 2 s = .next t ∧ (∀ j, j ≠ k → t.wbuf.read? j = s.wbuf.read? j) ∧
      t = { s with wbuf := t.wbuf, observed := .word k w :: s.observed, events := es, draws := s.draws + 2 }

/-- `LOADB b0 b1 ...` fills BUF from index 0 and sets BUFLEN to the count (30_encoding.md R101). -/
def Obligations.LoadbFillsTheBuffer : Prop :=
  ∀ (s : State) (bs : List Byte) (es : List Event), s.status.busy = false → s.params.wf = true →
    bs.length ≤ s.params.bufCap → s.events = (ScriptLine.loadb bs).expand ++ es →
    ∃ t, runSteps (bs.length + 1) s = .next t ∧ (∀ (j : Nat) (h : j < bs.length), t.buf.read? j = some bs[j]) ∧
      (∀ j, bs.length ≤ j → t.buf.read? j = s.buf.read? j) ∧
      t = { s with buf := t.buf, buflen := BitVec.ofNat 16 bs.length, events := es, draws := t.draws }

/-- While BUSY every primitive but a STATUS read and a reset is a fault: the form the model gives the undefined behaviour of
70_reset_and_hazards.md R210 [log 5]. -/
def Obligations.AccessWhileBusyFaults : Prop :=
  ∀ (s : State) (p : Primitive) (es : List Event), s.status.busy = true → s.events = .host p :: es →
    (p ≠ .reset ∧ ∀ width, p ≠ .readReg 1 width) → step s = .fault .accessWhileBusy

/-- While BUSY no host turn but a reset changes a register or a buffer cell: the command's operands at its completion
are those at the CMD write (10_state.md R24, 70_reset_and_hazards.md R215) [log 8]. -/
def Obligations.OperandsHeldWhileBusy : Prop :=
  ∀ (s t : State) (p : Primitive) (es : List Event), s.status.busy = true → s.events = .host p :: es → p ≠ .reset →
    step s = .next t → t = { s with events := es, observed := t.observed, draws := s.draws + 1 }

/-- A step stops exactly when the host's turn is outside the contract: a primitive that is not well formed (R71 to R73),
or another than a STATUS read or a reset while BUSY. The stops are the model's form of "outside the contract"
[log 5, 6]. -/
def Obligations.StopsExactlyOutsideTheContract : Prop :=
  ∀ s : State, (∃ t, step s = .next t) ↔
    ∀ (p : Primitive) (es : List Event), s.events = .host p :: es →
      p.wf s.params = true ∧ (s.status.busy = true → p.allowedWhileBusy = true)

/-- A run of a host that keeps the contract never stops, from any state and for any number of steps. The contract is
judged by BUSY itself, which is a deduction of the model and shorter than the window of 70_reset_and_hazards.md R210
[log 5]. -/
def Obligations.ObedientHostNeverStops : Prop :=
  ∀ (s : State) (n : Nat), s.HostObeys → ∃ t, runSteps n s = .next t

/-! ### CRC16 Engine -/

/-- R112: each table entry is a byte of T16, and the first entries of T16 are those the rule prints. -/
def Obligations.TablesHoldTheBytesOfT16 : Prop :=
  (∀ x : Byte, tlo x = (t16 x).extractLsb' 0 8 ∧ thi x = (t16 x).extractLsb' 8 8) ∧
  t16 0 = 0x0000#16 ∧ t16 1 = 0xC0C1#16 ∧ t16 2 = 0xC181#16 ∧ t16 3 = 0x0140#16 ∧ t16 4 = 0xC301#16 ∧
  t16 5 = 0x03C0#16 ∧ t16 6 = 0x0280#16 ∧ t16 7 = 0xC241#16 ∧ t16 255 = 0x4040#16

/-- R113: the table step is one byte of the bit-by-bit definition, and folding it from (0xFF, 0xFF) gives crc_bits. -/
def Obligations.TableStepEqualsTheBitDefinition : Prop :=
  (∀ lo hi b : Byte, crcStep lo hi b = (hi ^^^ tlo (lo ^^^ b), thi (lo ^^^ b)) ∧
    crcByte (hi ++ lo) b = (crcStep lo hi b).2 ++ (crcStep lo hi b).1) ∧
  ∀ bs : List Byte,
    let p := bs.foldl (fun p b => crcStep p.1 p.2 b) (0xFF#8, 0xFF#8)
    p.2 ++ p.1 = crcBits bs

/-- R116: the laws of crc_range, with `read k j` the byte the `k`-th read sees in cell `j`. -/
def Obligations.RangeFunctionLaws : Prop :=
  ∀ (read : Nat → Nat → Byte) (a n len : Nat),
    crcRange read a 0 len = 0xFFFF#16 ∧
    (a < len → crcRange read a n len = crcBits ((List.range (min n (len - a))).map fun i => read i (a + i))) ∧
    (len ≤ a → crcRange read a n len = 0xFFFF#16) ∧
    (∀ xs ys : List Byte, crcBits (xs ++ ys) = ys.foldl crcByte (crcBits xs)) ∧
    ∀ m : List Byte, crcBits (m ++ [(crcBits m).extractLsb' 0 8, (crcBits m).extractLsb' 8 8]) = 0x0000#16

/-- R115: CRCCALC gives the bit-by-bit checksum of the bytes its range visits, from every state; nothing else but ERR
and BUSY changes. -/
def Obligations.CrccalcChecksumsItsRange : Prop :=
  ∀ s : State, exec .crccalc s =
    .next { s with crc := crcBits (visited s 0 s.a.toNat s.n.toNat), status := done s .none }

/-- R117: the five ends of CRCVAL, in order. -/
def Obligations.CrcvalAnswersTheFrame : Prop :=
  ∀ s : State,
    (s.n.toNat < 6 → exec .crcval s = .next { s with status := ⟨false, false, .tooShort, .none⟩ }) ∧
    (6 ≤ s.n.toNat → s.buflen.toNat < s.n.toNat →
      exec .crcval s = .next { s with status := done s .boundsError }) ∧
    (6 ≤ s.n.toNat → s.n.toNat ≤ s.buflen.toNat →
      ((s.bufRead 0 0).toNat < 1 ∨ 247 < (s.bufRead 0 0).toNat) →
      exec .crcval s = .next { s with status := ⟨false, false, .unitIdRange, .none⟩ }) ∧
    (6 ≤ s.n.toNat → s.n.toNat ≤ s.buflen.toNat →
      1 ≤ (s.bufRead 0 0).toNat → (s.bufRead 0 0).toNat ≤ 247 →
      (trailerIs s (crcBits (visited s 1 0 (s.n.toNat - 2))) →
        exec .crcval s = .next { s with crc := crcBits (visited s 1 0 (s.n.toNat - 2)),
                                        status := ⟨false, true, .none, .none⟩ }) ∧
      (¬ trailerIs s (crcBits (visited s 1 0 (s.n.toNat - 2))) →
        exec .crcval s = .next { s with crc := crcBits (visited s 1 0 (s.n.toNat - 2)),
                                        status := ⟨false, false, .crcMismatch, .none⟩ }))

/-- R118: a frame CRCVAL accepts is rejected after any one bit of it is flipped (in a cell that has been written: another
holds no bit to flip); the cause is UnitIdRange when the flip takes the unit id out of 1 to 247 and CRCMismatch
otherwise; in the second case a flip before the trailer changes the checksum and a flip in it does not. -/
def Obligations.SingleBitFlipIsRejected : Prop :=
  ∀ (s t : State) (j bit : Nat) (b : Byte), exec .crcval s = .next t → t.status.err = .none → t.status.valid = true →
    j < s.n.toNat → bit < 8 → s.buf.read? j = some b →
    let b' := b ^^^ (1#8 <<< bit)
    ∃ u, exec .crcval { s with buf := s.buf.write j b' } = .next u ∧ u.status.err = .none ∧ u.status.valid = false ∧
      (u.status.reason = if j = 0 ∧ (b'.toNat < 1 ∨ 247 < b'.toNat) then .unitIdRange else .crcMismatch) ∧
      (u.status.reason = .crcMismatch →
        (j < s.n.toNat - 2 → u.crc ≠ t.crc) ∧ (s.n.toNat - 2 ≤ j → u.crc = t.crc))

/-! ### Register Codec, numeric -/

/-- R132: `combine` puts word k of the ordered sequence at bits 16k+15 : 16k, `split` is its inverse. -/
def Obligations.CombineAndSplitFollowTheWordOrder : Prop :=
  ∀ (o : WordOrder) (w0 w1 w2 w3 : Word) (x : BitVec 32) (y : BitVec 64),
    let ordered : List Word → List Word := fun ws => if o = .lowWordFirst then ws else ws.reverse
    (∀ k, k < 2 → (ordered [w0, w1])[k]? = some ((combine2 o w0 w1).extractLsb' (16 * k) 16)) ∧
    (∀ k, k < 4 → (ordered [w0, w1, w2, w3])[k]? = some ((combine4 o w0 w1 w2 w3).extractLsb' (16 * k) 16)) ∧
    (∀ k, k < 2 → (ordered (split2 o x))[k]? = some (x.extractLsb' (16 * k) 16)) ∧
    (∀ k, k < 4 → (ordered (split4 o y))[k]? = some (y.extractLsb' (16 * k) 16)) ∧
    split2 o (combine2 o w0 w1) = [w0, w1] ∧ split4 o (combine4 o w0 w1 w2 w3) = [w0, w1, w2, w3]

/-- R133, R135: the two commands on two words move the same bits, in both orders. -/
def Obligations.TwoWordsBecomeAValue : Prop :=
  ∀ (s : State) (i : Instr), (i = .r2i32 ∨ i = .r2f32) →
    (s.wcnt.toNat = 2 → s.order = .lowWordFirst →
      exec i s = .next { s with v := (s.wbufRead 1 1 ++ s.wbufRead 0 0 : BitVec 32).setWidth 64,
                                status := done s .none }) ∧
    (s.wcnt.toNat = 2 → s.order = .highWordFirst →
      exec i s = .next { s with v := (s.wbufRead 0 0 ++ s.wbufRead 1 1 : BitVec 32).setWidth 64,
                                status := done s .none }) ∧
    (s.wcnt.toNat ≠ 2 → exec i s = .next { s with status := done s .arityError })

/-- R134, R136: the two commands on four words move the same bits, in both orders. -/
def Obligations.FourWordsBecomeAValue : Prop :=
  ∀ (s : State) (i : Instr), (i = .r2i64 ∨ i = .r2f64) →
    (s.wcnt.toNat = 4 → s.order = .lowWordFirst →
      exec i s = .next { s with v := (s.wbufRead 3 3 ++ s.wbufRead 2 2 ++ s.wbufRead 1 1 ++ s.wbufRead 0 0 : BitVec 64),
                                status := done s .none }) ∧
    (s.wcnt.toNat = 4 → s.order = .highWordFirst →
      exec i s = .next { s with v := (s.wbufRead 0 0 ++ s.wbufRead 1 1 ++ s.wbufRead 2 2 ++ s.wbufRead 3 3 : BitVec 64),
                                status := done s .none }) ∧
    (s.wcnt.toNat ≠ 4 → exec i s = .next { s with status := done s .arityError })

/-- R137, R139: V[31:0] becomes WBUF[0] and WBUF[1], in the selected order; WCNT is 2; every other cell, V and every
other register keep their values. -/
def Obligations.ValueBecomesTwoWords : Prop :=
  ∀ (s : State) (i : Instr), (i = .i322r ∨ i = .f322r) →
    ∃ t, exec i s = .next t ∧
      (s.order = .lowWordFirst →
        t.wbuf.read? 0 = some (s.v.extractLsb' 0 16) ∧ t.wbuf.read? 1 = some (s.v.extractLsb' 16 16)) ∧
      (s.order = .highWordFirst →
        t.wbuf.read? 0 = some (s.v.extractLsb' 16 16) ∧ t.wbuf.read? 1 = some (s.v.extractLsb' 0 16)) ∧
      (∀ k, 2 ≤ k → t.wbuf.read? k = s.wbuf.read? k) ∧
      t = { s with wbuf := t.wbuf, wcnt := 2#16, status := done s .none }

/-- R138, R140: V becomes WBUF[0] to WBUF[3], in the selected order; WCNT is 4; every other cell, V and every other
register keep their values. -/
def Obligations.ValueBecomesFourWords : Prop :=
  ∀ (s : State) (i : Instr), (i = .i642r ∨ i = .f642r) →
    ∃ t, exec i s = .next t ∧
      (s.order = .lowWordFirst → ∀ k, k < 4 → t.wbuf.read? k = some (s.v.extractLsb' (16 * k) 16)) ∧
      (s.order = .highWordFirst → ∀ k, k < 4 → t.wbuf.read? k = some (s.v.extractLsb' (16 * (3 - k)) 16)) ∧
      (∀ k, 4 ≤ k → t.wbuf.read? k = s.wbuf.read? k) ∧
      t = { s with wbuf := t.wbuf, wcnt := 4#16, status := done s .none }

/-- R141: value to registers and back under the same order is exact (V[63:32] becomes 0 for a 32-bit type). -/
def Obligations.ValueRoundTripIsExact : Prop :=
  ∀ (s : State) (out back : Instr),
    ((out = .i322r ∧ back = .r2i32) ∨ (out = .f322r ∧ back = .r2f32) →
      ∃ t u, exec out s = .next t ∧ exec back t = .next u ∧ u.status.err = .none ∧
        u.v = (s.v.extractLsb' 0 32).setWidth 64) ∧
    ((out = .i642r ∧ back = .r2i64) ∨ (out = .f642r ∧ back = .r2f64) →
      ∃ t u, exec out s = .next t ∧ exec back t = .next u ∧ u.status.err = .none ∧ u.v = s.v)

/-- R141, the reverse composition: registers to value and back leaves the written words and WCNT as they were. -/
def Obligations.WordRoundTripIsExact : Prop :=
  ∀ (s : State) (out back : Instr), s.WbufWritten →
    ((s.wcnt.toNat = 2 ∧ ((out = .r2i32 ∧ back = .i322r) ∨ (out = .r2f32 ∧ back = .f322r))) ∨
      (s.wcnt.toNat = 4 ∧ ((out = .r2i64 ∧ back = .i642r) ∨ (out = .r2f64 ∧ back = .f642r)))) →
    ∃ t u, exec out s = .next t ∧ exec back t = .next u ∧ u.wcnt = s.wcnt ∧ ∀ k, u.wbuf.read? k = s.wbuf.read? k

/-- R141, R215: splitting under one order and combining under the other reverses the words. -/
def Obligations.CrossOrderRoundTripReversesTheWords : Prop :=
  ∀ (s : State) (o : WordOrder) (out back : Instr), o ≠ s.order →
    ((out = .i322r ∧ back = .r2i32) ∨ (out = .f322r ∧ back = .r2f32) →
      ∃ t u, exec out s = .next t ∧ exec back { t with order := o } = .next u ∧ u.status.err = .none ∧
        u.v = (s.v.extractLsb' 0 16 ++ s.v.extractLsb' 16 16 : BitVec 32).setWidth 64) ∧
    ((out = .i642r ∧ back = .r2i64) ∨ (out = .f642r ∧ back = .r2f64) →
      ∃ t u, exec out s = .next t ∧ exec back { t with order := o } = .next u ∧ u.status.err = .none ∧
        u.v = (s.v.extractLsb' 0 16 ++ s.v.extractLsb' 16 16 ++ s.v.extractLsb' 32 16 ++ s.v.extractLsb' 48 16 :
          BitVec 64))

/-! ### Register Codec, strings and auxiliary commands -/

/-- R151: R2STR copies N bytes out of consecutive words from A, low byte first, or raises BoundsError. -/
def Obligations.RegistersBecomeAString : Prop :=
  ∀ s : State,
    (s.a.toNat + (s.n.toNat + 1) / 2 ≤ s.wcnt.toNat → s.n.toNat ≤ s.params.bufCap →
      ∃ t, exec .r2str s = .next t ∧
        (∀ j, j < s.n.toNat → t.buf.read? j =
          some (if j % 2 = 0 then (s.wbufRead j (s.a.toNat + j / 2)).extractLsb' 0 8
            else (s.wbufRead j (s.a.toNat + j / 2)).extractLsb' 8 8)) ∧
        (∀ j, s.n.toNat ≤ j → t.buf.read? j = s.buf.read? j) ∧
        t = { s with buf := t.buf, buflen := s.n, status := done s .none }) ∧
    (s.wcnt.toNat < s.a.toNat + (s.n.toNat + 1) / 2 ∨ s.params.bufCap < s.n.toNat →
      exec .r2str s = .next { s with status := done s .boundsError })

/-- R153: STR2R packs the BUFLEN bytes two per word, low byte first, zero-padded, or raises BoundsError. -/
def Obligations.StringBecomesRegisters : Prop :=
  ∀ s : State,
    ((s.buflen.toNat + 1) / 2 ≤ s.params.wcap →
      ∃ t, exec .str2r s = .next t ∧
        (∀ k, k < (s.buflen.toNat + 1) / 2 → t.wbuf.read? k =
          some ((if 2 * k + 1 < s.buflen.toNat then s.bufRead (2 * k + 1) (2 * k + 1) else 0x00#8) ++
            s.bufRead (2 * k) (2 * k))) ∧
        (∀ k, (s.buflen.toNat + 1) / 2 ≤ k → t.wbuf.read? k = s.wbuf.read? k) ∧
        t = { s with wbuf := t.wbuf, wcnt := t.wcnt, status := done s .none } ∧
        t.wcnt.toNat = (s.buflen.toNat + 1) / 2) ∧
    (s.params.wcap < (s.buflen.toNat + 1) / 2 → exec .str2r s = .next { s with status := done s .boundsError })

/-- R152: a written string survives STR2R and R2STR. -/
def Obligations.StringRoundTripKeepsTheBytes : Prop :=
  ∀ s : State, s.Inv → s.BufWritten → s.buflen.toNat ≤ 2 * s.params.wcap →
    ∃ t u, exec .str2r s = .next t ∧ exec .r2str { t with a := 0#32, n := s.buflen } = .next u ∧
      u.status.err = .none ∧ u.buflen = s.buflen ∧ ∀ j, u.buf.read? j = s.buf.read? j

/-- R152, the other direction: written words survive R2STR with N = 2m and STR2R, and with N = 2m - 1 the last word
comes back with its high byte cleared. -/
def Obligations.WordsRoundTripThroughAString : Prop :=
  ∀ (s : State) (m : Nat), s.Inv → s.WbufWritten → s.wcnt.toNat = m → s.a = 0#32 →
    (s.n.toNat = 2 * m → 2 * m ≤ s.params.bufCap →
      ∃ t u, exec .r2str s = .next t ∧ exec .str2r t = .next u ∧ u.status.err = .none ∧ u.wcnt = s.wcnt ∧
        ∀ k, k < m → u.wbuf.read? k = s.wbuf.read? k) ∧
    (s.n.toNat + 1 = 2 * m → s.n.toNat ≤ s.params.bufCap →
      ∃ t u, exec .r2str s = .next t ∧ exec .str2r t = .next u ∧ u.status.err = .none ∧ u.wcnt = s.wcnt ∧
        (∀ k, k + 1 < m → u.wbuf.read? k = s.wbuf.read? k) ∧
        ∀ w, s.wbuf.read? (m - 1) = some w → u.wbuf.read? (m - 1) = some (w &&& 0x00FF#16))

/-- R161: LDWBE takes N words from consecutive byte pairs at A, high byte first, or raises BoundsError. -/
def Obligations.WireBytesBecomeWords : Prop :=
  ∀ s : State,
    (s.a.toNat + 2 * s.n.toNat ≤ s.buflen.toNat → s.n.toNat ≤ s.params.wcap →
      ∃ t, exec .ldwbe s = .next t ∧
        (∀ k, k < s.n.toNat → t.wbuf.read? k =
          some (s.bufRead (2 * k) (s.a.toNat + 2 * k) ++ s.bufRead (2 * k + 1) (s.a.toNat + 2 * k + 1))) ∧
        (∀ k, s.n.toNat ≤ k → t.wbuf.read? k = s.wbuf.read? k) ∧
        t = { s with wbuf := t.wbuf, wcnt := s.n, status := done s .none }) ∧
    (s.buflen.toNat < s.a.toNat + 2 * s.n.toNat ∨ s.params.wcap < s.n.toNat →
      exec .ldwbe s = .next { s with status := done s .boundsError })

/-- R163: WIDEN sign-extends WBUF[A] to V[31:0] with V[63:32] = 0, or raises BoundsError. -/
def Obligations.WidenSignExtendsTheWord : Prop :=
  ∀ s : State,
    (s.a.toNat < s.wcnt.toNat →
      ∃ x : BitVec 64,
        exec .widen s = .next { s with v := x, status := done s .none } ∧
        x.extractLsb' 0 16 = s.wbufRead 0 s.a.toNat ∧
        (∀ k, 16 ≤ k → k < 32 → x.getLsbD k = (s.wbufRead 0 s.a.toNat).getLsbD 15) ∧
        x.extractLsb' 32 32 = 0#32) ∧
    (s.wcnt.toNat ≤ s.a.toNat → exec .widen s = .next { s with status := done s .boundsError })

/-! ### Errors, frames, and what a command does not see -/

/-- R171, R174, R175: the error of every command, exactly; a reserved code's is IllegalCommand. -/
def Obligations.ErrorCodeOfEveryCommand : Prop :=
  ∀ s : State,
    (∀ i, ∃ t, exec i s = .next t ∧ t.status.err = errorOf i s) ∧
    ∃ t, runDecoded .illegalCommand s = .next t ∧ t.status.err = .illegalCommand

/-- R173: errors are precise. -/
def Obligations.ErrorsArePrecise : Prop :=
  ∀ (d : Decoded) (s t : State), runDecoded d s = .next t → t.status.err ≠ .none →
    t = { s with status := { s.status with busy := false, err := t.status.err } }

/-- R48, R49: the frame of every command. -/
def Obligations.CommandsChangeOnlyWhatTheirRuleNames : Prop :=
  ∀ (i : Instr) (s t : State), exec i s = .next t →
    t.a = s.a ∧ t.n = s.n ∧ t.order = s.order ∧ t.cmd = s.cmd ∧ t.params = s.params ∧ t.events = s.events ∧
    t.observed = s.observed ∧ t.draws = s.draws ∧ t.status.busy = false ∧
    (i ≠ .r2str → t.buflen = s.buflen) ∧
    (∀ j, storedBytes i s ≤ j → t.buf.read? j = s.buf.read? j) ∧
    (i ≠ .crccalc → i ≠ .crcval → t.crc = s.crc) ∧
    (i ≠ .crcval → t.status.valid = s.status.valid ∧ t.status.reason = s.status.reason) ∧
    (i ≠ .r2i32 → i ≠ .r2i64 → i ≠ .r2f32 → i ≠ .r2f64 → i ≠ .widen → t.v = s.v) ∧
    (i ≠ .i322r → i ≠ .i642r → i ≠ .f322r → i ≠ .f642r → i ≠ .str2r → i ≠ .ldwbe → t.wcnt = s.wcnt) ∧
    ∀ k, storedWords i s ≤ k → t.wbuf.read? k = s.wbuf.read? k

/-- R27, R28: VALID and REASON are written by a CRCVAL with ERR = None alone, and together. -/
def Obligations.VerdictIsWrittenByCrcvalAlone : Prop :=
  ∀ (d : Decoded) (s t : State), runDecoded d s = .next t →
    ((d ≠ .command .crcval ∨ t.status.err ≠ .none) →
      t.status.valid = s.status.valid ∧ t.status.reason = s.status.reason) ∧
    (d = .command .crcval → t.status.err = .none →
      (t.status.valid = true → t.status.reason = .none) ∧ (t.status.valid = false → t.status.reason ≠ .none))

/-- R75: issuing the same command again, with no host write between, leaves the same state; the second command has
free values of its own (`d`), so every cell below the lengths is written (R44) [log 2]. -/
def Obligations.CommandsAreIdempotent : Prop :=
  ∀ (i : Instr) (s t : State) (d : Nat), s.Inv → s.WrittenBelowLengths → exec i s = .next t →
    exec i { t with draws := d } = .next { t with draws := d }

/-- R44: a host that writes every cell below the length it sets never meets an unspecified value: the free values
[log 2] have no influence. -/
def Obligations.WrittenBuffersHideNoFreeValue : Prop :=
  ∀ (i : Instr) (s t : State) (d : Nat), s.WrittenBelowLengths → exec i s = .next t →
    exec i { s with draws := d } = .next { t with draws := d }

/-- ORDER, A and N cannot influence the commands that do not read them (10_state.md R30, R31, R32). The other registers
are the subject of `UnreadResultsAndLengthsHaveNoInfluence`. -/
def Obligations.UnreadRegistersHaveNoInfluence : Prop :=
  ∀ (i : Instr) (s t : State), exec i s = .next t →
    (∀ o, i ∈ [Instr.crccalc, .crcval, .r2str, .str2r, .ldwbe, .widen] →
      exec i { s with order := o } = .next { t with order := o }) ∧
    (∀ a, i ∈ [Instr.crcval, .str2r, .r2i32, .r2i64, .r2f32, .r2f64, .i322r, .i642r, .f322r, .f642r] →
      exec i { s with a := a } = .next { t with a := a }) ∧
    ∀ n, i ∈ [Instr.str2r, .widen, .r2i32, .r2i64, .r2f32, .r2f64, .i322r, .i642r, .f322r, .f642r] →
      exec i { s with n := n } = .next { t with n := n }

/-- No command reads STATUS (10_state.md R40): with another STATUS before, the next state is the same but for VALID and
REASON, and those are the same too where the command writes them (a CRCVAL without error) and kept where it does not. -/
def Obligations.StatusIsNoOperand : Prop :=
  ∀ (i : Instr) (s t : State) (x : Status), exec i s = .next t →
    ∃ y : Status, exec i { s with status := x } = .next { t with status := y } ∧ y.busy = false ∧
      y.err = t.status.err ∧
      (i = .crcval → t.status.err = .none → y.valid = t.status.valid ∧ y.reason = t.status.reason) ∧
      (i ≠ .crcval ∨ t.status.err ≠ .none → y.valid = x.valid ∧ y.reason = x.reason)

/-- Cells outside the logical lengths have no influence (10_state.md R37, R38): bytes at or above BUFLEN on the commands
that read BUF, words at or above WCNT on those that read WBUF. -/
def Obligations.CellsOutsideTheLengthsAreNotSeen : Prop :=
  ∀ (i : Instr) (s t : State), exec i s = .next t →
    (∀ m : Memory 8, i ∈ [Instr.crccalc, .crcval, .str2r, .ldwbe] →
      (∀ j, j < s.buflen.toNat → m.read? j = s.buf.read? j) →
      exec i { s with buf := m } = .next { t with buf := m }) ∧
    ∀ m : Memory 16, i ∈ [Instr.r2i32, .r2i64, .r2f32, .r2f64, .r2str, .widen] →
      (∀ k, k < s.wcnt.toNat → m.read? k = s.wbuf.read? k) →
      exec i { s with wbuf := m } = .next { t with wbuf := m }

/-! ### Beside the statements above -/

/-- `LOADW w0 w1 ...` fills WBUF from index 0 and sets WCNT to the count (30_encoding.md R101). -/
def Obligations.LoadwFillsTheWordBuffer : Prop :=
  ∀ (s : State) (ws : List Word) (es : List Event), s.status.busy = false → s.params.wf = true →
    ws.length ≤ s.params.wcap → s.events = (ScriptLine.loadw ws).expand ++ es →
    ∃ t, runSteps (ws.length + 1) s = .next t ∧ (∀ (k : Nat) (h : k < ws.length), t.wbuf.read? k = some ws[k]) ∧
      (∀ k, ws.length ≤ k → t.wbuf.read? k = s.wbuf.read? k) ∧
      t = { s with wbuf := t.wbuf, wcnt := BitVec.ofNat 16 ws.length, events := es, draws := t.draws }

/-- A host read of a cell inside the capacity that holds a value, whoever stored it and whatever the lengths, returns that
value and changes nothing else (20_memory.md R70, R73, R78). The record of reads is the model's [log 9]. -/
def Obligations.WrittenCellsReadTheirValue : Prop :=
  ∀ (s : State) (i : Nat) (es : List Event), s.status.busy = false →
    (∀ b, i < s.params.bufCap → s.buf.read? i = some b → s.events = .host (.readBuf i) :: es →
      step s = .next { ticked s with observed := .byte i b :: s.observed }) ∧
    ∀ w, i < s.params.wcap → s.wbuf.read? i = some w → s.events = .host (.readWord i) :: es →
      step s = .next { ticked s with observed := .word i w :: s.observed }

/-- After a command that stores completes without an error, a host read of any cell it stored to returns the value it
stored there (10_state.md R26, 20_memory.md R78). The record of reads is the model's [log 9]. -/
def Obligations.HostReadsWhatACommandStored : Prop :=
  ∀ (i : Instr) (s t : State) (j : Nat) (es : List Event), s.Inv → exec i s = .next t → t.status.err = .none →
    (j < storedBytes i s → ∃ b, t.buf.read? j = some b ∧
      step { t with events := .host (.readBuf j) :: es } =
        .next { t with events := es, draws := t.draws + 1, observed := .byte j b :: t.observed }) ∧
    (j < storedWords i s → ∃ w, t.wbuf.read? j = some w ∧
      step { t with events := .host (.readWord j) :: es } =
        .next { t with events := es, draws := t.draws + 1, observed := .word j w :: t.observed })

/-- V, CRC, BUFLEN and WCNT cannot influence the commands that do not read them (10_state.md R33 to R36, R49): changed
before, the register is changed after unless the command wrote it, and nothing else differs. Of V the two commands on
V[31:0] do not read the upper half. -/
def Obligations.UnreadResultsAndLengthsHaveNoInfluence : Prop :=
  ∀ (i : Instr) (s t : State), exec i s = .next t →
    (∀ v, i ∉ [Instr.i322r, .i642r, .f322r, .f642r] →
      (i ∈ writesV ∧ t.status.err = .none → exec i { s with v := v } = .next t) ∧
      (¬ (i ∈ writesV ∧ t.status.err = .none) → exec i { s with v := v } = .next { t with v := v })) ∧
    (∀ v, i ∈ [Instr.i322r, .f322r] → v.extractLsb' 0 32 = s.v.extractLsb' 0 32 →
      exec i { s with v := v } = .next { t with v := v }) ∧
    (∀ c, (crcWritten i t → exec i { s with crc := c } = .next t) ∧
      (¬ crcWritten i t → exec i { s with crc := c } = .next { t with crc := c })) ∧
    (∀ l, i ∈ [Instr.r2i32, .r2i64, .r2f32, .r2f64, .i322r, .i642r, .f322r, .f642r, .r2str, .widen] →
      (i = .r2str ∧ t.status.err = .none → exec i { s with buflen := l } = .next t) ∧
      (¬ (i = .r2str ∧ t.status.err = .none) → exec i { s with buflen := l } = .next { t with buflen := l })) ∧
    ∀ c, i ∈ [Instr.crccalc, .crcval, .i322r, .i642r, .f322r, .f642r, .str2r, .ldwbe] →
      (i ∈ writesWcnt ∧ t.status.err = .none → exec i { s with wcnt := c } = .next t) ∧
      (¬ (i ∈ writesWcnt ∧ t.status.err = .none) → exec i { s with wcnt := c } = .next { t with wcnt := c })
end

