-- ==== Sys2Proof/Laws/Memory.lean ====
section
/-! SUPPORT. The laws of a buffer: read after write, the canonical form, the capacity bound, and that a canonical
buffer is determined by what its cells hold. -/

namespace Sys2Proof.Machine.Memory

variable {w : Nat}

@[simp] theorem read?_nil (i : Nat) : read? ([] : Memory w) i = none := rfl

@[simp] theorem read?_cons (j : Nat) (x : BitVec w) (m : Memory w) (i : Nat) :
    read? ((j, x) :: m) i = if j = i then some x else read? m i := rfl

/-- A cell reads as the value last written to it. -/
@[simp] theorem read?_write_same (m : Memory w) (i : Nat) (x : BitVec w) : read? (m.write i x) i = some x := by
  induction m with
  | nil => simp [write]
  | cons c m ih =>
    obtain ⟨j, y⟩ := c
    simp only [write]
    split
    · simp
    · split
      · simp
      · next _ h => simp [Ne.symm h, ih]

/-- A write leaves every other cell alone. -/
theorem read?_write_other (m : Memory w) {i j : Nat} (x : BitVec w) (h : j ≠ i) :
    read? (m.write i x) j = read? m j := by
  induction m with
  | nil => simp [write, Ne.symm h]
  | cons c m ih =>
    obtain ⟨k, y⟩ := c
    simp only [write]
    split
    · simp [Ne.symm h]
    · split
      · next _ hk => subst hk; simp [Ne.symm h]
      · simp [ih]

/-- Cells outside a written range keep what they held. -/
theorem read?_writeAll_outside (xs : List (BitVec w)) (m : Memory w) (i j : Nat)
    (h : j < i ∨ i + xs.length ≤ j) : read? (m.writeAll i xs) j = read? m j := by
  induction xs generalizing m i with
  | nil => rfl
  | cons x xs ih =>
    simp only [List.length_cons] at h
    simp only [writeAll]
    rw [ih _ _ (by omega), read?_write_other _ _ (by omega)]

/-- Cell `i + k` of a written range holds element `k`. -/
theorem read?_writeAll_inside (xs : List (BitVec w)) (m : Memory w) (i k : Nat) (h : k < xs.length) :
    read? (m.writeAll i xs) (i + k) = some xs[k] := by
  induction xs generalizing m i k with
  | nil => simp at h
  | cons x xs ih =>
    simp only [writeAll]
    cases k with
    | zero => rw [read?_writeAll_outside _ _ _ _ (by omega)]; simp
    | succ k =>
      have := ih (m.write i x) (i + 1) k (by simpa using h)
      simpa [Nat.add_assoc, Nat.add_comm 1 k] using this

/-- The canonical form, said of the first cell and the rest. -/
theorem wf_cons (j : Nat) (x : BitVec w) (m : Memory w) :
    wf ((j, x) :: m) = true ↔ (∀ c ∈ m.head?, j < c.1) ∧ wf m = true := by
  cases m with
  | nil => simp [wf]
  | cons c m => obtain ⟨k, y⟩ := c; simp [wf]

theorem head_write (m : Memory w) (i : Nat) (x : BitVec w) :
    ∀ c ∈ (m.write i x).head?, c.1 = i ∨ c ∈ m.head? := by
  cases m with
  | nil => simp [write]
  | cons c m =>
    obtain ⟨j, y⟩ := c
    simp only [write]
    split
    · simp
    · split <;> simp

/-- A write keeps the canonical form. -/
theorem wf_write (m : Memory w) (i : Nat) (x : BitVec w) (h : m.wf = true) : (m.write i x).wf = true := by
  induction m with
  | nil => rfl
  | cons c m ih =>
    obtain ⟨j, y⟩ := c
    have hc := (wf_cons j y m).mp h
    simp only [write]
    split
    · next hij => exact (wf_cons _ _ _).mpr ⟨by simpa using hij, h⟩
    · split
      · next _ hij => subst hij; exact (wf_cons _ _ _).mpr hc
      · next h1 h2 =>
        refine (wf_cons _ _ _).mpr ⟨fun c hm => ?_, ih hc.2⟩
        rcases head_write m i x c hm with e | e
        · omega
        · exact hc.1 c e

/-- A write of a range keeps the canonical form. -/
theorem wf_writeAll (xs : List (BitVec w)) (m : Memory w) (i : Nat) (h : m.wf = true) :
    (m.writeAll i xs).wf = true := by
  induction xs generalizing m i with
  | nil => exact h
  | cons x xs ih => exact ih _ _ (wf_write m i x h)

theorem below_iff (cap : Nat) (m : Memory w) : m.below cap = true ↔ ∀ c ∈ m, c.1 < cap := by
  simp [below]

theorem mem_write (m : Memory w) (i : Nat) (x : BitVec w) :
    ∀ c ∈ m.write i x, c.1 = i ∨ c ∈ m := by
  induction m with
  | nil => simp [write]
  | cons c m ih =>
    obtain ⟨j, y⟩ := c
    intro d hd
    simp only [write] at hd
    split at hd
    · simp at hd ⊢; grind
    · split at hd
      · simp at hd ⊢; grind
      · rcases List.mem_cons.mp hd with e | e
        · simp [e]
        · rcases ih d e with e | e <;> simp [e]

/-- A write inside the capacity keeps every index inside it. -/
theorem below_write (cap : Nat) (m : Memory w) (i : Nat) (x : BitVec w) (h : m.below cap = true) (hi : i < cap) :
    (m.write i x).below cap = true := by
  rw [below_iff] at *
  intro c hc
  rcases mem_write m i x c hc with e | e
  · omega
  · exact h c e

/-- A write of a range inside the capacity keeps every index inside it. -/
theorem below_writeAll (cap : Nat) (xs : List (BitVec w)) (m : Memory w) (i : Nat) (h : m.below cap = true)
    (hi : i + xs.length ≤ cap) : (m.writeAll i xs).below cap = true := by
  induction xs generalizing m i with
  | nil => exact h
  | cons x xs ih =>
    simp only [List.length_cons] at hi
    exact ih _ _ (below_write cap m i x h (by omega)) (by omega)

/-- Every index of the rest of a canonical buffer is above its first. -/
theorem read?_none_of_head (m : Memory w) (h : m.wf = true) (i : Nat) (hi : ∀ c ∈ m.head?, i < c.1) :
    read? m i = none := by
  induction m with
  | nil => rfl
  | cons c m ih =>
    obtain ⟨j, y⟩ := c
    have hj : i < j := by simpa using hi
    have hc := (wf_cons j y m).mp h
    rw [read?_cons, if_neg (by omega)]
    exact ih hc.2 fun c hm => Nat.lt_trans hj (hc.1 c hm)

/-- Canonical buffers whose cells hold the same are the same data. -/
theorem ext_of_wf (m m' : Memory w) (h : m.wf = true) (h' : m'.wf = true) (e : ∀ i, read? m i = read? m' i) :
    m = m' := by
  induction m generalizing m' with
  | nil =>
    cases m' with
    | nil => rfl
    | cons c m' => obtain ⟨j, y⟩ := c; have := e j; simp at this
  | cons c m ih =>
    obtain ⟨j, y⟩ := c
    have hc := (wf_cons j y m).mp h
    cases m' with
    | nil => have := e j; simp at this
    | cons d m' =>
      obtain ⟨k, z⟩ := d
      have hd := (wf_cons k z m').mp h'
      have hjk : j = k := by
        rcases Nat.lt_trichotomy j k with l | l | l
        · have h1 := e j
          rw [read?_none_of_head _ h' j (by simpa using l)] at h1
          simp at h1
        · exact l
        · have h1 := e k
          rw [read?_none_of_head _ h k (by simpa using l)] at h1
          simp at h1
      subst hjk
      have hyz : y = z := by simpa using e j
      subst hyz
      congr 1
      refine ih m' hc.2 hd.2 fun i => ?_
      by_cases hi : j = i
      · subst hi
        rw [read?_none_of_head m hc.2 j hc.1, read?_none_of_head m' hd.2 j hd.1]
      · simpa [hi] using e i

/-- Writing the value a cell already holds changes nothing. -/
theorem write_held (m : Memory w) (h : m.wf = true) (i : Nat) (x : BitVec w) (hx : read? m i = some x) :
    m.write i x = m := by
  refine ext_of_wf _ _ (wf_write m i x h) h fun j => ?_
  by_cases hj : j = i
  · subst hj; rw [read?_write_same, hx]
  · exact read?_write_other m x hj

end Sys2Proof.Machine.Memory
end

