-- ==== Sys2Proof/Laws/State.lean ====
section
/-! SUPPORT. What each state update does to each field of State: one lemma per field per update. -/

namespace Sys2Proof.Machine.State

@[simp] theorem start_eq (s : State) : s.start = s.a.toNat := rfl

@[simp] theorem count_eq (s : State) : s.count = s.n.toNat := rfl

@[simp] theorem bufBound_eq (s : State) : s.bufBound = s.buflen.toNat := rfl

@[simp] theorem wordCount_eq (s : State) : s.wordCount = s.wcnt.toNat := rfl

@[simp] theorem value32_eq (s : State) : s.value32 = s.v.extractLsb' 0 32 := rfl

@[simp] theorem finish_eq_complete (s : State) : s.finish = s.complete .none := rfl

@[simp] theorem raise_eq_complete (s : State) (e : Err) : s.raise e = s.complete e := rfl

section Complete
variable (s : State) (e : Err)

@[simp] theorem complete_params : (s.complete e).params = s.params := rfl
@[simp] theorem complete_cmd : (s.complete e).cmd = s.cmd := rfl
@[simp] theorem complete_status : (s.complete e).status = { s.status with busy := false, err := e } := rfl
@[simp] theorem complete_order : (s.complete e).order = s.order := rfl
@[simp] theorem complete_a : (s.complete e).a = s.a := rfl
@[simp] theorem complete_n : (s.complete e).n = s.n := rfl
@[simp] theorem complete_buflen : (s.complete e).buflen = s.buflen := rfl
@[simp] theorem complete_wcnt : (s.complete e).wcnt = s.wcnt := rfl
@[simp] theorem complete_crc : (s.complete e).crc = s.crc := rfl
@[simp] theorem complete_v : (s.complete e).v = s.v := rfl
@[simp] theorem complete_buf : (s.complete e).buf = s.buf := rfl
@[simp] theorem complete_wbuf : (s.complete e).wbuf = s.wbuf := rfl
@[simp] theorem complete_events : (s.complete e).events = s.events := rfl
@[simp] theorem complete_observed : (s.complete e).observed = s.observed := rfl
@[simp] theorem complete_draws : (s.complete e).draws = s.draws := rfl

end Complete

section Answer
variable (s : State) (r : Reason)

@[simp] theorem answer_params : (s.answer r).params = s.params := rfl
@[simp] theorem answer_cmd : (s.answer r).cmd = s.cmd := rfl
@[simp] theorem answer_status : (s.answer r).status = ⟨false, decide (r = .none), r, .none⟩ := rfl
@[simp] theorem answer_order : (s.answer r).order = s.order := rfl
@[simp] theorem answer_a : (s.answer r).a = s.a := rfl
@[simp] theorem answer_n : (s.answer r).n = s.n := rfl
@[simp] theorem answer_buflen : (s.answer r).buflen = s.buflen := rfl
@[simp] theorem answer_wcnt : (s.answer r).wcnt = s.wcnt := rfl
@[simp] theorem answer_crc : (s.answer r).crc = s.crc := rfl
@[simp] theorem answer_v : (s.answer r).v = s.v := rfl
@[simp] theorem answer_buf : (s.answer r).buf = s.buf := rfl
@[simp] theorem answer_wbuf : (s.answer r).wbuf = s.wbuf := rfl
@[simp] theorem answer_events : (s.answer r).events = s.events := rfl
@[simp] theorem answer_observed : (s.answer r).observed = s.observed := rfl
@[simp] theorem answer_draws : (s.answer r).draws = s.draws := rfl

end Answer

section Issue
variable (s : State) (c : Byte)

@[simp] theorem issue_params : (s.issue c).params = s.params := rfl
@[simp] theorem issue_cmd : (s.issue c).cmd = c := rfl
@[simp] theorem issue_status : (s.issue c).status = { s.status with busy := true } := rfl
@[simp] theorem issue_order : (s.issue c).order = s.order := rfl
@[simp] theorem issue_a : (s.issue c).a = s.a := rfl
@[simp] theorem issue_n : (s.issue c).n = s.n := rfl
@[simp] theorem issue_buflen : (s.issue c).buflen = s.buflen := rfl
@[simp] theorem issue_wcnt : (s.issue c).wcnt = s.wcnt := rfl
@[simp] theorem issue_crc : (s.issue c).crc = s.crc := rfl
@[simp] theorem issue_v : (s.issue c).v = s.v := rfl
@[simp] theorem issue_buf : (s.issue c).buf = s.buf := rfl
@[simp] theorem issue_wbuf : (s.issue c).wbuf = s.wbuf := rfl
@[simp] theorem issue_events : (s.issue c).events = s.events := rfl
@[simp] theorem issue_observed : (s.issue c).observed = s.observed := rfl
@[simp] theorem issue_draws : (s.issue c).draws = s.draws := rfl

end Issue

section Observe
variable (s : State) (o : Observation)

@[simp] theorem observe_params : (s.observe o).params = s.params := rfl
@[simp] theorem observe_cmd : (s.observe o).cmd = s.cmd := rfl
@[simp] theorem observe_status : (s.observe o).status = s.status := rfl
@[simp] theorem observe_order : (s.observe o).order = s.order := rfl
@[simp] theorem observe_a : (s.observe o).a = s.a := rfl
@[simp] theorem observe_n : (s.observe o).n = s.n := rfl
@[simp] theorem observe_buflen : (s.observe o).buflen = s.buflen := rfl
@[simp] theorem observe_wcnt : (s.observe o).wcnt = s.wcnt := rfl
@[simp] theorem observe_crc : (s.observe o).crc = s.crc := rfl
@[simp] theorem observe_v : (s.observe o).v = s.v := rfl
@[simp] theorem observe_buf : (s.observe o).buf = s.buf := rfl
@[simp] theorem observe_wbuf : (s.observe o).wbuf = s.wbuf := rfl
@[simp] theorem observe_events : (s.observe o).events = s.events := rfl
@[simp] theorem observe_observed : (s.observe o).observed = o :: s.observed := rfl
@[simp] theorem observe_draws : (s.observe o).draws = s.draws := rfl

end Observe

section Tick
variable (s : State) 

@[simp] theorem tick_params : (s.tick).params = s.params := rfl
@[simp] theorem tick_cmd : (s.tick).cmd = s.cmd := rfl
@[simp] theorem tick_status : (s.tick).status = s.status := rfl
@[simp] theorem tick_order : (s.tick).order = s.order := rfl
@[simp] theorem tick_a : (s.tick).a = s.a := rfl
@[simp] theorem tick_n : (s.tick).n = s.n := rfl
@[simp] theorem tick_buflen : (s.tick).buflen = s.buflen := rfl
@[simp] theorem tick_wcnt : (s.tick).wcnt = s.wcnt := rfl
@[simp] theorem tick_crc : (s.tick).crc = s.crc := rfl
@[simp] theorem tick_v : (s.tick).v = s.v := rfl
@[simp] theorem tick_buf : (s.tick).buf = s.buf := rfl
@[simp] theorem tick_wbuf : (s.tick).wbuf = s.wbuf := rfl
@[simp] theorem tick_events : (s.tick).events = s.events.tail := rfl
@[simp] theorem tick_observed : (s.tick).observed = s.observed := rfl
@[simp] theorem tick_draws : (s.tick).draws = s.draws + 1 := rfl

end Tick

section Storebytes
variable (s : State) (bs : List Byte)

@[simp] theorem storeBytes_params : (s.storeBytes bs).params = s.params := rfl
@[simp] theorem storeBytes_cmd : (s.storeBytes bs).cmd = s.cmd := rfl
@[simp] theorem storeBytes_status : (s.storeBytes bs).status = s.status := rfl
@[simp] theorem storeBytes_order : (s.storeBytes bs).order = s.order := rfl
@[simp] theorem storeBytes_a : (s.storeBytes bs).a = s.a := rfl
@[simp] theorem storeBytes_n : (s.storeBytes bs).n = s.n := rfl
@[simp] theorem storeBytes_buflen : (s.storeBytes bs).buflen = s.buflen := rfl
@[simp] theorem storeBytes_wcnt : (s.storeBytes bs).wcnt = s.wcnt := rfl
@[simp] theorem storeBytes_crc : (s.storeBytes bs).crc = s.crc := rfl
@[simp] theorem storeBytes_v : (s.storeBytes bs).v = s.v := rfl
@[simp] theorem storeBytes_buf : (s.storeBytes bs).buf = s.buf.writeAll 0 bs := rfl
@[simp] theorem storeBytes_wbuf : (s.storeBytes bs).wbuf = s.wbuf := rfl
@[simp] theorem storeBytes_events : (s.storeBytes bs).events = s.events := rfl
@[simp] theorem storeBytes_observed : (s.storeBytes bs).observed = s.observed := rfl
@[simp] theorem storeBytes_draws : (s.storeBytes bs).draws = s.draws := rfl

end Storebytes

section Storewords
variable (s : State) (ws : List Word)

@[simp] theorem storeWords_params : (s.storeWords ws).params = s.params := rfl
@[simp] theorem storeWords_cmd : (s.storeWords ws).cmd = s.cmd := rfl
@[simp] theorem storeWords_status : (s.storeWords ws).status = s.status := rfl
@[simp] theorem storeWords_order : (s.storeWords ws).order = s.order := rfl
@[simp] theorem storeWords_a : (s.storeWords ws).a = s.a := rfl
@[simp] theorem storeWords_n : (s.storeWords ws).n = s.n := rfl
@[simp] theorem storeWords_buflen : (s.storeWords ws).buflen = s.buflen := rfl
@[simp] theorem storeWords_wcnt : (s.storeWords ws).wcnt = BitVec.ofNat 16 ws.length := rfl
@[simp] theorem storeWords_crc : (s.storeWords ws).crc = s.crc := rfl
@[simp] theorem storeWords_v : (s.storeWords ws).v = s.v := rfl
@[simp] theorem storeWords_buf : (s.storeWords ws).buf = s.buf := rfl
@[simp] theorem storeWords_wbuf : (s.storeWords ws).wbuf = s.wbuf.writeAll 0 ws := rfl
@[simp] theorem storeWords_events : (s.storeWords ws).events = s.events := rfl
@[simp] theorem storeWords_observed : (s.storeWords ws).observed = s.observed := rfl
@[simp] theorem storeWords_draws : (s.storeWords ws).draws = s.draws := rfl

end Storewords

section Setvalue32
variable (s : State) (x : BitVec 32)

@[simp] theorem setValue32_params : (s.setValue32 x).params = s.params := rfl
@[simp] theorem setValue32_cmd : (s.setValue32 x).cmd = s.cmd := rfl
@[simp] theorem setValue32_status : (s.setValue32 x).status = s.status := rfl
@[simp] theorem setValue32_order : (s.setValue32 x).order = s.order := rfl
@[simp] theorem setValue32_a : (s.setValue32 x).a = s.a := rfl
@[simp] theorem setValue32_n : (s.setValue32 x).n = s.n := rfl
@[simp] theorem setValue32_buflen : (s.setValue32 x).buflen = s.buflen := rfl
@[simp] theorem setValue32_wcnt : (s.setValue32 x).wcnt = s.wcnt := rfl
@[simp] theorem setValue32_crc : (s.setValue32 x).crc = s.crc := rfl
@[simp] theorem setValue32_v : (s.setValue32 x).v = zext64 x := rfl
@[simp] theorem setValue32_buf : (s.setValue32 x).buf = s.buf := rfl
@[simp] theorem setValue32_wbuf : (s.setValue32 x).wbuf = s.wbuf := rfl
@[simp] theorem setValue32_events : (s.setValue32 x).events = s.events := rfl
@[simp] theorem setValue32_observed : (s.setValue32 x).observed = s.observed := rfl
@[simp] theorem setValue32_draws : (s.setValue32 x).draws = s.draws := rfl

end Setvalue32

section Setvalue64
variable (s : State) (x : BitVec 64)

@[simp] theorem setValue64_params : (s.setValue64 x).params = s.params := rfl
@[simp] theorem setValue64_cmd : (s.setValue64 x).cmd = s.cmd := rfl
@[simp] theorem setValue64_status : (s.setValue64 x).status = s.status := rfl
@[simp] theorem setValue64_order : (s.setValue64 x).order = s.order := rfl
@[simp] theorem setValue64_a : (s.setValue64 x).a = s.a := rfl
@[simp] theorem setValue64_n : (s.setValue64 x).n = s.n := rfl
@[simp] theorem setValue64_buflen : (s.setValue64 x).buflen = s.buflen := rfl
@[simp] theorem setValue64_wcnt : (s.setValue64 x).wcnt = s.wcnt := rfl
@[simp] theorem setValue64_crc : (s.setValue64 x).crc = s.crc := rfl
@[simp] theorem setValue64_v : (s.setValue64 x).v = x := rfl
@[simp] theorem setValue64_buf : (s.setValue64 x).buf = s.buf := rfl
@[simp] theorem setValue64_wbuf : (s.setValue64 x).wbuf = s.wbuf := rfl
@[simp] theorem setValue64_events : (s.setValue64 x).events = s.events := rfl
@[simp] theorem setValue64_observed : (s.setValue64 x).observed = s.observed := rfl
@[simp] theorem setValue64_draws : (s.setValue64 x).draws = s.draws := rfl

end Setvalue64

section Hostreset
variable (s : State) 

@[simp] theorem hostReset_params : (s.hostReset).params = s.params := rfl
@[simp] theorem hostReset_cmd : (s.hostReset).cmd = 0x00#8 := rfl
@[simp] theorem hostReset_status : (s.hostReset).status = Status.reset := rfl
@[simp] theorem hostReset_order : (s.hostReset).order = .lowWordFirst := rfl
@[simp] theorem hostReset_a : (s.hostReset).a = 0#32 := rfl
@[simp] theorem hostReset_n : (s.hostReset).n = 0#16 := rfl
@[simp] theorem hostReset_buflen : (s.hostReset).buflen = 0#16 := rfl
@[simp] theorem hostReset_wcnt : (s.hostReset).wcnt = 0#16 := rfl
@[simp] theorem hostReset_crc : (s.hostReset).crc = 0xFFFF#16 := rfl
@[simp] theorem hostReset_v : (s.hostReset).v = 0#64 := rfl
@[simp] theorem hostReset_buf : (s.hostReset).buf = [] := rfl
@[simp] theorem hostReset_wbuf : (s.hostReset).wbuf = [] := rfl
@[simp] theorem hostReset_events : (s.hostReset).events = s.events := rfl
@[simp] theorem hostReset_observed : (s.hostReset).observed = s.observed := rfl
@[simp] theorem hostReset_draws : (s.hostReset).draws = s.draws := rfl

end Hostreset

end Sys2Proof.Machine.State
end

