-- ==== Sys2Proof/Laws/Commands.lean ====
section
/-! SUPPORT. One lemma per shared operation of the meanings: everything it can do. -/

namespace Sys2Proof.Machine

/-- Every command completes: no meaning faults or refuses (70_reset_and_hazards.md R221). -/
theorem exec_completes (i : Instr) (s : State) : ∃ t, exec i s = .next t := by
  cases i <;>
    simp only [exec, execCrccalc, execCrcval, execR2i32, execR2i64, execR2f32, execR2f64, execI322r, execI642r,
      execF322r, execF642r, execR2str, execStr2r, execLdwbe, execWiden] <;>
    (repeat' split) <;> exact ⟨_, rfl⟩

/-- The two ends of a registers-to-value command on two words (R133, R135). -/
theorem toValue32_cases (s : State) :
    (s.wcnt.toNat = 2 ∧
      s.toValue32 = (s.setValue32 (combine2 s.order (s.wbufRead 0 0) (s.wbufRead 1 1))).complete .none) ∨
    (s.wcnt.toNat ≠ 2 ∧ s.toValue32 = s.complete .arityError) := by
  unfold State.toValue32
  split
  · exact .inl ⟨‹_›, rfl⟩
  · exact .inr ⟨‹_›, rfl⟩

/-- The two ends of a registers-to-value command on four words (R134, R136). -/
theorem toValue64_cases (s : State) :
    (s.wcnt.toNat = 4 ∧
      s.toValue64 =
        (s.setValue64
          (combine4 s.order (s.wbufRead 0 0) (s.wbufRead 1 1) (s.wbufRead 2 2) (s.wbufRead 3 3))).complete .none) ∨
    (s.wcnt.toNat ≠ 4 ∧ s.toValue64 = s.complete .arityError) := by
  unfold State.toValue64
  split
  · exact .inl ⟨‹_›, rfl⟩
  · exact .inr ⟨‹_›, rfl⟩

theorem split2_length (o : WordOrder) (v : BitVec 32) : (split2 o v).length = 2 := by cases o <;> rfl

theorem split4_length (o : WordOrder) (v : BitVec 64) : (split4 o v).length = 4 := by cases o <;> rfl

theorem stringBytes_length (s : State) : s.stringBytes.length = s.n.toNat := by simp [State.stringBytes]

theorem stringWords_length (s : State) : s.stringWords.length = (s.buflen.toNat + 1) / 2 := by
  simp [State.stringWords, ceil2]

theorem wireWords_length (s : State) : s.wireWords.length = s.n.toNat := by simp [State.wireWords]

/-- The unit id test of R117 as a range. -/
theorem unitIdOutside_iff (s : State) :
    s.unitIdOutside = true ↔ (s.bufRead 0 0).toNat < 1 ∨ 247 < (s.bufRead 0 0).toNat := by
  unfold State.unitIdOutside
  rw [Bool.or_eq_true, decide_eq_true_eq, decide_eq_true_eq]
  rfl

/-- The comparison of R117 as two equalities. -/
theorem trailerMatches_iff (s : State) :
    s.trailerMatches = true ↔
      s.bufRead (s.n.toNat - 1) (s.n.toNat - 2) = lowByte s.frameCrc ∧
        s.bufRead s.n.toNat (s.n.toNat - 1) = highByte s.frameCrc := by
  unfold State.trailerMatches
  rw [Bool.and_eq_true, decide_eq_true_eq, decide_eq_true_eq]

/-- The ends of CRCVAL (R117): too short, past the bound, unit id out of range, and the comparison reached. -/
theorem execCrcval_cases (s : State) :
    (s.n.toNat < 6 ∧ execCrcval s = .next (s.answer .tooShort)) ∨
    (6 ≤ s.n.toNat ∧ s.buflen.toNat < s.n.toNat ∧ execCrcval s = .next (s.complete .boundsError)) ∨
    (6 ≤ s.n.toNat ∧ s.n.toNat ≤ s.buflen.toNat ∧ s.unitIdOutside = true ∧ execCrcval s = .next (s.answer .unitIdRange)) ∨
    (6 ≤ s.n.toNat ∧ s.n.toNat ≤ s.buflen.toNat ∧ s.unitIdOutside = false ∧
      execCrcval s =
        .next ({ s with crc := s.frameCrc }.answer (if s.trailerMatches then .none else .crcMismatch))) := by
  unfold execCrcval
  split
  · exact .inl ⟨‹_›, rfl⟩
  · next h1 =>
    have h6 : 6 ≤ s.n.toNat := Nat.not_lt.mp h1
    split
    · exact .inr (.inl ⟨h6, ‹_›, rfl⟩)
    · next h2 =>
      have h7 : s.n.toNat ≤ s.buflen.toNat := Nat.not_lt.mp h2
      split
      · exact .inr (.inr (.inl ⟨h6, h7, ‹_›, rfl⟩))
      · next h3 => exact .inr (.inr (.inr ⟨h6, h7, by simpa using h3, rfl⟩))

/-- The two ends of R2STR (R151). -/
theorem execR2str_cases (s : State) :
    (s.a.toNat + (s.n.toNat + 1) / 2 ≤ s.wcnt.toNat ∧ s.n.toNat ≤ s.params.bufCap ∧
      execR2str s = .next ({ s.storeBytes s.stringBytes with buflen := s.n }.complete .none)) ∨
    ((s.wcnt.toNat < s.a.toNat + (s.n.toNat + 1) / 2 ∨ s.params.bufCap < s.n.toNat) ∧
      execR2str s = .next (s.complete .boundsError)) := by
  unfold execR2str
  split
  · exact .inr ⟨‹_›, rfl⟩
  · next h => simp only [State.start_eq, State.count_eq, State.wordCount_eq, ceil2] at h; exact .inl ⟨by omega, by omega, rfl⟩

/-- The two ends of STR2R (R153). -/
theorem execStr2r_cases (s : State) :
    ((s.buflen.toNat + 1) / 2 ≤ s.params.wcap ∧ execStr2r s = .next ((s.storeWords s.stringWords).complete .none)) ∨
    (s.params.wcap < (s.buflen.toNat + 1) / 2 ∧ execStr2r s = .next (s.complete .boundsError)) := by
  unfold execStr2r
  split
  · exact .inr ⟨‹_›, rfl⟩
  · next h => simp only [State.bufBound_eq, ceil2] at h; exact .inl ⟨by omega, rfl⟩

/-- The two ends of LDWBE (R161). -/
theorem execLdwbe_cases (s : State) :
    (s.a.toNat + 2 * s.n.toNat ≤ s.buflen.toNat ∧ s.n.toNat ≤ s.params.wcap ∧
      execLdwbe s = .next ((s.storeWords s.wireWords).complete .none)) ∨
    ((s.buflen.toNat < s.a.toNat + 2 * s.n.toNat ∨ s.params.wcap < s.n.toNat) ∧
      execLdwbe s = .next (s.complete .boundsError)) := by
  unfold execLdwbe
  split
  · exact .inr ⟨‹_›, rfl⟩
  · next h => simp only [State.start_eq, State.count_eq, State.bufBound_eq] at h; exact .inl ⟨by omega, by omega, rfl⟩

/-- The two ends of WIDEN (R163). -/
theorem execWiden_cases (s : State) :
    (s.a.toNat < s.wcnt.toNat ∧
      execWiden s = .next ((s.setValue32 (sext32 (s.wbufRead 0 s.a.toNat))).complete .none)) ∨
    (s.wcnt.toNat ≤ s.a.toNat ∧ execWiden s = .next (s.complete .boundsError)) := by
  unfold execWiden
  split
  · exact .inr ⟨‹_›, rfl⟩
  · next h => simp only [State.start_eq, State.wordCount_eq] at h; exact .inl ⟨by omega, rfl⟩

end Sys2Proof.Machine
end

