-- ==== Sys2Proof/Laws/Crc.lean ====
section
/-! SUPPORT. The algebra of the checksum: the shift step is linear and injective, and what one position of the range
loop and the whole loop do. -/

namespace Sys2Proof.Machine

/-- The working values after one position (R114): `i` advances in both cases. -/
@[simp] theorem Working.visit_i (read : Nat → Nat → Byte) (a len : Nat) (w : Working) :
    (w.visit read a len).i = w.i + 1 := by
  unfold Working.visit
  split <;> rfl

/-- A position at or beyond the bound is skipped: the checksum bytes stay (R114, R116 (c)). -/
theorem Working.visit_skipped (read : Nat → Nat → Byte) (a len : Nat) (w : Working) (h : len ≤ a + w.i) :
    w.visit read a len = ⟨w.lo, w.hi, w.i + 1⟩ := by
  simp [Working.visit, Nat.not_lt.mpr h]

/-- A position below the bound takes one table step (R114). -/
theorem Working.visit_read (read : Nat → Nat → Byte) (a len : Nat) (w : Working) (h : a + w.i < len) :
    w.visit read a len =
      ⟨(crcStep w.lo w.hi (read w.i (a + w.i))).1, (crcStep w.lo w.hi (read w.i (a + w.i))).2, w.i + 1⟩ := by
  simp [Working.visit, h]

/-- Once the index has reached the bound, the rest of the loop leaves the checksum alone. -/
theorem crcLoop_skips (read : Nat → Nat → Byte) (a len n : Nat) (w : Working) (h : len ≤ a + w.i) :
    (crcLoop read a len n w).packed = w.packed := by
  induction n generalizing w with
  | zero => rfl
  | succ n ih =>
    rw [crcLoop, ih _ (by rw [Working.visit_i]; omega), Working.visit_skipped _ _ _ _ h]
    rfl

/-- The loop reads only cells below the bound, so it cannot tell two readings apart that agree there. -/
theorem crcLoop_congr (read read' : Nat → Nat → Byte) (a len n : Nat) (w : Working)
    (h : ∀ k j, j < len → read k j = read' k j) : crcLoop read a len n w = crcLoop read' a len n w := by
  induction n generalizing w with
  | zero => rfl
  | succ n ih =>
    rw [crcLoop, crcLoop, ih]
    congr 1
    by_cases hw : a + w.i < len
    · rw [Working.visit_read _ _ _ _ hw, Working.visit_read _ _ _ _ hw, h _ _ hw]
    · rw [Working.visit_skipped _ _ _ _ (by omega), Working.visit_skipped _ _ _ _ (by omega)]

/-- `crc_range` depends only on the cells below the bound. -/
theorem crcRange_congr (read read' : Nat → Nat → Byte) (a n len : Nat)
    (h : ∀ k j, j < len → read k j = read' k j) : crcRange read a n len = crcRange read' a n len := by
  rw [crcRange, crcRange, crcLoop_congr read read' a len n _ h]

/-- The shift step of R111 is linear over XOR. -/
theorem shiftStep_xor (c d : BitVec 16) : shiftStep (c ^^^ d) = shiftStep c ^^^ shiftStep d := by
  unfold shiftStep
  rw [BitVec.getLsbD_xor, BitVec.ushiftRight_xor_distrib]
  cases c.getLsbD 0 <;> cases d.getLsbD 0 <;> simp
  · rw [BitVec.xor_assoc]
  · rw [BitVec.xor_assoc, BitVec.xor_assoc, BitVec.xor_comm (d >>> 1)]
  · rw [BitVec.xor_comm (d >>> 1), ← BitVec.xor_assoc, BitVec.xor_assoc (c >>> 1), BitVec.xor_self,
      BitVec.xor_zero]

theorem shiftSteps_xor (n : Nat) (c d : BitVec 16) : shiftSteps n (c ^^^ d) = shiftSteps n c ^^^ shiftSteps n d := by
  induction n generalizing c d with
  | zero => rfl
  | succ n ih => rw [shiftSteps, shiftSteps, shiftSteps, shiftStep_xor, ih]

end Sys2Proof.Machine
end

