-- ==== Sys2Proof/Laws/PerInstr.lean ====
section
/-! SUPPORT. Per-command facts about the command word: its group is that of the command's format and, outside format
CV, FN[3:1] is 000 (30_encoding.md R90, R91). -/

namespace Sys2Proof.Laws.CommandWord

/-- The word of a command has the fields its format prescribes. -/
def Statement (i : Instr) : Prop :=
  grp (encode i) = (formatOf i).group ∧ (fn (encode i)).getLsbD 3 = false ∧
    (formatOf i ≠ .cv → (fn (encode i)).extractLsb' 1 3 = 0b000#3)

theorem crccalc : Statement .crccalc := by unfold Statement; decide
theorem crcval : Statement .crcval := by unfold Statement; decide
theorem r2i32 : Statement .r2i32 := by unfold Statement; decide
theorem r2i64 : Statement .r2i64 := by unfold Statement; decide
theorem r2f32 : Statement .r2f32 := by unfold Statement; decide
theorem r2f64 : Statement .r2f64 := by unfold Statement; decide
theorem i322r : Statement .i322r := by unfold Statement; decide
theorem i642r : Statement .i642r := by unfold Statement; decide
theorem f322r : Statement .f322r := by unfold Statement; decide
theorem f642r : Statement .f642r := by unfold Statement; decide
theorem r2str : Statement .r2str := by unfold Statement; decide
theorem str2r : Statement .str2r := by unfold Statement; decide
theorem ldwbe : Statement .ldwbe := by unfold Statement; decide
theorem widen : Statement .widen := by unfold Statement; decide

end Sys2Proof.Laws.CommandWord
end

