-- ==== Sys2Proof/Laws/Step.lean ====
section
/-! SUPPORT. What one step does, by the turn it takes, and what a host primitive can do. -/

namespace Sys2Proof.Machine

/-- One more step of the host's run of any machine, by what the step answers. -/
theorem hostRun_succ (M : Host.Core) (n : Nat) (s : M.State) :
    (∀ t, M.step s = .next t → M.run (n + 1) s = M.run n t) ∧
      (∀ r, M.step s = .fault r → M.run (n + 1) s = .fault r) ∧
      ∀ r, M.step s = .refused r → M.run (n + 1) s = .refused r := by
  refine ⟨fun t h => ?_, fun r h => ?_, fun r h => ?_⟩ <;> simp only [Host.Core.run, h]

/-- The host's run of the machine is `runSteps`. -/
theorem core_run_eq_runSteps (n : Nat) (s : State) : Host.Core.run core n s = runSteps n s := by
  induction n generalizing s with
  | zero => rfl
  | succ n ih =>
    obtain ⟨hn, hf, hr⟩ := hostRun_succ core n s
    rw [runSteps]
    cases h : step s with
    | next t => exact (hn t h).trans (ih t)
    | fault r => exact hf r h
    | refused r => exact hr r h

/-- A run goes on from the state a step answers. -/
theorem runSteps_of_step {s t : State} (h : step s = .next t) (n : Nat) : runSteps (n + 1) s = runSteps n t := by
  rw [runSteps, h]

theorem step_host (s : State) (p : Primitive) (es : List Event) (h : s.events = .host p :: es) :
    step s = perform p s.tick := by
  simp [step, h]

theorem step_block (s : State) (es : List Event) (h : s.events = .block :: es) : step s = blockTurn s.tick := by
  simp [step, h]

theorem step_last (s : State) (h : s.events = []) (hb : s.status.busy = true) : step s = blockTurn s.tick := by
  simp [step, h, hb]

theorem step_waits (s : State) (h : s.events = []) (hb : s.status.busy = false) : step s = .next s := by
  simp [step, h, hb]

/-- The block's turn always answers a next state: the command in flight completes, or nothing happens. -/
theorem blockTurn_next (s : State) : ∃ t, blockTurn s = .next t := by
  unfold blockTurn
  split
  · cases h : decode s.cmd with
    | command i => exact exec_completes i s
    | illegalCommand => exact ⟨_, rfl⟩
  · exact ⟨_, rfl⟩

/-- The register of a register's number is that register (10_state.md R21). -/
@[simp] theorem Reg.ofNumber_number (r : Reg) : Reg.ofNumber r.number = some r := by cases r <;> rfl

theorem perform_idle (p : Primitive) (s : State) (h : s.status.busy = false) : perform p s = access p s := by
  simp [perform, h]

theorem perform_allowed (p : Primitive) (s : State) (h : p.allowedWhileBusy = true) : perform p s = access p s := by
  simp [perform, h]

theorem perform_stray (p : Primitive) (s : State) (hb : s.status.busy = true) (h : p.allowedWhileBusy = false) :
    perform p s = .fault .accessWhileBusy := by
  simp [perform, hb, h]

end Sys2Proof.Machine
end

