-- ==== Sys2Proof/Tests/Slice0.lean ====
section
/-! SUPPORT. Tests. Expected values come from the spec: the encodings of 30_encoding.md R90 to R92, the vectors of
95_test_vectors.md (their numbers V<n> in the docstrings) and the rules named. Then, for each statement with
hypotheses, a state and operands that meet them. -/

open Sys2Proof Sys2Proof.Machine

namespace Sys2Proof.Tests

/-- A buffer holding these cells from index 0. -/
def cells {w : Nat} (xs : List (BitVec w)) : Memory w := Memory.writeAll [] 0 xs

/-- The reset state with capacities as given, BUF and WBUF loaded and the lengths set to the counts. -/
def loaded (p : Config.Params) (bs : List Byte) (ws : List Word) : State :=
  { State.reset with params := p, buf := cells bs, buflen := BitVec.ofNat 16 bs.length, wbuf := cells ws,
                     wcnt := BitVec.ofNat 16 ws.length }

/-- BUF loaded, under the suggested capacities. -/
def withBuf (bs : List Byte) : State := loaded Config.suggested bs []

/-- WBUF loaded, under the suggested capacities. -/
def withWords (o : WordOrder) (ws : List Word) : State := { loaded Config.suggested [] ws with order := o }

/-- The smallest capacities R10 allows for BUF and WBUF. -/
def tiny : Config.Params := ⟨6, 4⟩

/-- The next state of an outcome, none for a fault or a refusal. -/
def stateOf (o : Host.Outcome State Fault Refusal) : Option State :=
  match o with
  | .next t => some t
  | .fault _ => none
  | .refused _ => none

/-- The fault of an outcome. -/
def faultOf (o : Host.Outcome State Fault Refusal) : Option Fault :=
  match o with
  | .fault r => some r
  | .next _ => none
  | .refused _ => none

/-- The refusal of an outcome. -/
def refusalOf (o : Host.Outcome State Fault Refusal) : Option Refusal :=
  match o with
  | .refused r => some r
  | .next _ => none
  | .fault _ => none

/-- CRC and STATUS after a command. -/
def crcAndStatus (i : Instr) (s : State) : Option (BitVec 16 × Byte) :=
  (stateOf (exec i s)).map fun t => (t.crc, t.status.toByte)

/-- V and STATUS after a command. -/
def valueAndStatus (i : Instr) (s : State) : Option (BitVec 64 × Byte) :=
  (stateOf (exec i s)).map fun t => (t.v, t.status.toByte)

/-- WBUF, WCNT and STATUS after a command. -/
def wordsAndStatus (i : Instr) (s : State) : Option (Memory 16 × Nat × Byte) :=
  (stateOf (exec i s)).map fun t => (t.wbuf, t.wcnt.toNat, t.status.toByte)

/-- BUF, BUFLEN and STATUS after a command. -/
def bytesAndStatus (i : Instr) (s : State) : Option (Memory 8 × Nat × Byte) :=
  (stateOf (exec i s)).map fun t => (t.buf, t.buflen.toNat, t.status.toByte)

/-- The state after the host performs one primitive on `s`. -/
def hostDoes (p : Primitive) (s : State) : Host.Outcome State Fault Refusal :=
  step { s with events := [.host p] }

/-! ### Well-formedness: each check refuses an ill-formed term -/

theorem test_wf_params_bufCap_low : Config.Params.wf ⟨5, 4⟩ = false := by decide
theorem test_wf_params_bufCap_high : Config.Params.wf ⟨65536, 4⟩ = false := by decide
theorem test_wf_params_wcap_low : Config.Params.wf ⟨6, 3⟩ = false := by decide
theorem test_wf_params_wcap_high : Config.Params.wf ⟨6, 65536⟩ = false := by decide
theorem test_wf_params_bounds : Config.Params.wf ⟨6, 4⟩ = true ∧ Config.Params.wf ⟨65535, 65535⟩ = true := by decide
theorem test_wf_read_number : (Primitive.readReg 9 8).wf tiny = false := by decide
theorem test_wf_read_width : (Primitive.readReg 3 16).wf tiny = false := by decide
theorem test_wf_write_number : (Primitive.writeReg 9 8 0).wf tiny = false := by decide
theorem test_wf_write_width : (Primitive.writeReg 8 32 0).wf tiny = false := by decide
theorem test_wf_write_value : (Primitive.writeReg 4 16 65536).wf tiny = false := by decide
theorem test_wf_write_buflen : (Primitive.writeReg 5 16 7).wf tiny = false := by decide
theorem test_wf_write_wcnt : (Primitive.writeReg 6 16 5).wf tiny = false := by decide
theorem test_wf_readBuf : (Primitive.readBuf 6).wf tiny = false := by decide
theorem test_wf_writeBuf : (Primitive.writeBuf 6 0).wf tiny = false := by decide
theorem test_wf_readWord : (Primitive.readWord 4).wf tiny = false := by decide
theorem test_wf_writeWord : (Primitive.writeWord 4 0).wf tiny = false := by decide
theorem test_wf_accepts : (Primitive.writeReg 5 16 6).wf tiny = true ∧ (Primitive.writeBuf 5 0xFF).wf tiny = true := by
  decide

/-! ### Decoding: every command's word, from the formats of R90 and R91 -/

theorem test_decode_crccalc : decode 0b0001_0000#8 = .command .crccalc := by decide
theorem test_decode_crcval : decode 0b0001_0001#8 = .command .crcval := by decide
theorem test_decode_r2i32 : decode 0b0010_0000#8 = .command .r2i32 := by decide
theorem test_decode_r2i64 : decode 0b0010_0001#8 = .command .r2i64 := by decide
theorem test_decode_r2f32 : decode 0b0010_0010#8 = .command .r2f32 := by decide
theorem test_decode_r2f64 : decode 0b0010_0011#8 = .command .r2f64 := by decide
theorem test_decode_i322r : decode 0b0010_0100#8 = .command .i322r := by decide
theorem test_decode_i642r : decode 0b0010_0101#8 = .command .i642r := by decide
theorem test_decode_f322r : decode 0b0010_0110#8 = .command .f322r := by decide
theorem test_decode_f642r : decode 0b0010_0111#8 = .command .f642r := by decide
theorem test_decode_r2str : decode 0b0011_0000#8 = .command .r2str := by decide
theorem test_decode_str2r : decode 0b0011_0001#8 = .command .str2r := by decide
theorem test_decode_ldwbe : decode 0b0100_0000#8 = .command .ldwbe := by decide
theorem test_decode_widen : decode 0b0100_0001#8 = .command .widen := by decide

/-- The reserved codes of V120. -/
theorem test_decode_reserved :
    [0x00, 0x12, 0x1F, 0x28, 0x32, 0x42, 0x50, 0xFF].map decode = List.replicate 8 Decoded.illegalCommand := by decide

theorem test_decodeTableWord : decodeTableWord 8 0x27 = some .f642r ∧ decodeTableWord 8 0x28 = none ∧
    decodeTableWord 16 0x27 = none := by decide

/-! ### CRC16 Engine -/

/-- The source's frame of S8.3. -/
def frame : List Byte := [0x00, 0x01, 0x00, 0x00, 0x00, 0x06, 0x01, 0x03, 0x00, 0x00, 0x00, 0x02]

/-- V0d. -/
theorem test_t16 : t16 0x10 = 0xCC01#16 ∧ t16 0x80 = 0xA001#16 ∧ t16 0xFF = 0x4040#16 := by decide

/-- V0f, V0g, V0h. -/
theorem test_crcStep : crcStep 0xFF 0xFF 0x01 = (0x7E, 0x80) ∧ crcStep 0xFF 0xFF 0x00 = (0xBF, 0x40) ∧
    crcStep 0xFF 0xFF 0xFF = (0xFF, 0x00) := by decide

/-- V2. -/
theorem test_crccalc_frame :
    crcAndStatus .crccalc { withBuf frame with a := 6, n := 6 } = some (0x0BC4, 0x00) := by decide

/-- V8: the range runs past the buffer. -/
theorem test_crccalc_skips :
    crcAndStatus .crccalc { withBuf frame with a := 8, n := 10 } = some (0xE581, 0x00) := by decide

/-- V20. -/
theorem test_crcval_accepts :
    crcAndStatus .crcval { withBuf [0x01, 0x03, 0x00, 0x00, 0x00, 0x02, 0xC4, 0x0B] with n := 8 } =
      some (0x0BC4, 0x02) := by decide

/-- V21: the checksum bytes in the other order. -/
theorem test_crcval_rejects :
    crcAndStatus .crcval { withBuf [0x01, 0x03, 0x00, 0x00, 0x00, 0x02, 0x0B, 0xC4] with n := 8 } =
      some (0x0BC4, 0x0C) := by decide

/-! ### Register Codec, numeric -/

/-- V40. -/
theorem test_r2i32_low :
    valueAndStatus .r2i32 (withWords .lowWordFirst [0x5678, 0x1234]) = some (0x12345678, 0x00) := by decide

/-- V45a: three words. -/
theorem test_r2i32_arity :
    valueAndStatus .r2i32 (withWords .lowWordFirst [1, 2, 3]) = some (0, 0x20) := by decide

/-- V46. -/
theorem test_r2i64_low :
    valueAndStatus .r2i64 (withWords .lowWordFirst [0x1111, 0x2222, 0x3333, 0x4444]) =
      some (0x4444333322221111, 0x00) := by decide

/-- V47. -/
theorem test_r2i64_high :
    valueAndStatus .r2i64 (withWords .highWordFirst [0x1111, 0x2222, 0x3333, 0x4444]) =
      some (0x1111222233334444, 0x00) := by decide

/-- V51. -/
theorem test_r2f32_high :
    valueAndStatus .r2f32 (withWords .highWordFirst [0x3F80, 0x0000]) = some (0x3F800000, 0x00) := by decide

/-- V53: a NaN keeps its bits. -/
theorem test_r2f32_nan :
    valueAndStatus .r2f32 (withWords .lowWordFirst [0x2345, 0x7FC1]) = some (0x7FC12345, 0x00) := by decide

/-- V55. -/
theorem test_r2f64_high :
    valueAndStatus .r2f64 (withWords .highWordFirst [0xC05E, 0xDD2F, 0x1A9F, 0xBE77]) =
      some (0xC05EDD2F1A9FBE77, 0x00) := by decide

/-- V56. -/
theorem test_r2f64_low :
    valueAndStatus .r2f64 (withWords .lowWordFirst [0x2D18, 0x5444, 0x21FB, 0x4009]) =
      some (0x400921FB54442D18, 0x00) := by decide

/-- V61. -/
theorem test_i322r_high :
    wordsAndStatus .i322r { withWords .highWordFirst [] with v := 0x12345678 } =
      some (cells [0x1234, 0x5678], 2, 0x00) := by decide

/-- V73: cells above the result keep their words. -/
theorem test_i322r_keeps :
    wordsAndStatus .i322r { withWords .lowWordFirst [9, 9, 9, 9] with v := 0x12345678 } =
      some (cells [0x5678, 0x1234, 9, 9], 2, 0x00) := by decide

/-- V64. -/
theorem test_i642r_low :
    wordsAndStatus .i642r { withWords .lowWordFirst [] with v := 0x0123456789ABCDEF } =
      some (cells [0xCDEF, 0x89AB, 0x4567, 0x0123], 4, 0x00) := by decide

/-- V65. -/
theorem test_i642r_high :
    wordsAndStatus .i642r { withWords .highWordFirst [] with v := 0x0123456789ABCDEF } =
      some (cells [0x0123, 0x4567, 0x89AB, 0xCDEF], 4, 0x00) := by decide

/-- V67. -/
theorem test_f322r_low :
    wordsAndStatus .f322r { withWords .lowWordFirst [] with v := 0xC0200000 } =
      some (cells [0x0000, 0xC020], 2, 0x00) := by decide

/-- V68. -/
theorem test_f322r_high :
    wordsAndStatus .f322r { withWords .highWordFirst [] with v := 0x80000000 } =
      some (cells [0x8000, 0x0000], 2, 0x00) := by decide

/-- V70. -/
theorem test_f642r_low :
    wordsAndStatus .f642r { withWords .lowWordFirst [] with v := 0xC05EDD2F1A9FBE77 } =
      some (cells [0xBE77, 0x1A9F, 0xDD2F, 0xC05E], 4, 0x00) := by decide

/-- V69. -/
theorem test_f642r_high :
    wordsAndStatus .f642r { withWords .highWordFirst [] with v := 0x3FF0000000000000 } =
      some (cells [0x3FF0, 0, 0, 0], 4, 0x00) := by decide

/-! ### Strings and auxiliary commands -/

/-- V86. -/
theorem test_r2str_hello :
    bytesAndStatus .r2str { withWords .lowWordFirst [0x6548, 0x6C6C, 0x006F] with n := 5 } =
      some (cells [0x48, 0x65, 0x6C, 0x6C, 0x6F], 5, 0x00) := by decide

/-- V89: four words needed, WCNT 3. -/
theorem test_r2str_bounds :
    bytesAndStatus .r2str { withWords .lowWordFirst [0x6548, 0x6C6C, 0x006F] with n := 7 } = some ([], 0, 0x40) := by
  decide

/-- V80: odd length. -/
theorem test_str2r_hello :
    wordsAndStatus .str2r (withBuf [0x48, 0x65, 0x6C, 0x6C, 0x6F]) =
      some (cells [0x6548, 0x6C6C, 0x006F], 3, 0x00) := by decide

/-- V85: five words needed, capacity 4. -/
theorem test_str2r_bounds :
    wordsAndStatus .str2r (loaded ⟨2100, 4⟩ [0x31, 0x32, 0x33, 0x34, 0x35, 0x36, 0x37, 0x38, 0x39] []) =
      some ([], 0, 0x40) := by decide

/-- The bytes of V100 to V106. -/
def response : List Byte := [0x00, 0x01, 0x00, 0x00, 0x00, 0x07, 0x01, 0x03, 0x04, 0xFF, 0xFE, 0x12, 0x34]

/-- V100. -/
theorem test_ldwbe_payload :
    wordsAndStatus .ldwbe { withBuf response with a := 9, n := 2 } = some (cells [0xFFFE, 0x1234], 2, 0x00) := by decide

/-- V106: the sum does not wrap. -/
theorem test_ldwbe_bounds :
    wordsAndStatus .ldwbe { withBuf response with a := 0xFFFFFFFF, n := 1 } = some ([], 0, 0x40) := by decide

/-- V110. -/
theorem test_widen_negative :
    valueAndStatus .widen { withWords .lowWordFirst [0xFFFE, 0x1234] with v := 0x5555555555555555 } =
      some (0xFFFFFFFE, 0x00) := by decide

/-- V114: A = WCNT. -/
theorem test_widen_bounds :
    valueAndStatus .widen { withWords .lowWordFirst [0x8000, 0x7FFF] with a := 2 } = some (0, 0x40) := by decide

/-! ### The host primitives and the step -/

/-- R100: the registers a `WR` line may name, and no other. -/
theorem test_wr_registers :
    ([WrReg.cfg, .a, .n, .buflen, .wcnt, .v].map WrReg.reg = [Reg.cfg, .a, .n, .buflen, .wcnt, .v]) ∧
      ∀ r : WrReg, r.reg ≠ .cmd ∧ r.reg ≠ .status ∧ r.reg ≠ .crc :=
  ⟨by decide, fun r => by cases r <;> decide⟩

/-- R30: only bit 0 of a value written to CFG is kept. -/
theorem test_write_cfg : (stateOf (hostDoes (.writeReg 2 8 0xFE) State.reset)).map (·.order) = some .lowWordFirst := by
  decide

/-- R21: CRC ignores a host write. -/
theorem test_write_crc : (stateOf (hostDoes (.writeReg 7 16 3) State.reset)).map (·.crc) = some 0xFFFF#16 := by decide

/-- R24: CMD reads 0, also after a command was written. -/
theorem test_read_cmd :
    (stateOf (hostDoes (.readReg 0 8) { State.reset with cmd := 0x10 })).map (·.observed) =
      some [.reg .cmd 0] := by decide

/-- R25: STATUS of V33, with BUSY set. -/
theorem test_read_status :
    (stateOf (hostDoes (.readReg 1 8) { State.reset with status := ⟨true, true, .none, .boundsError⟩ })).map
      (·.observed) = some [.reg .status 0x43] := by decide

/-- R210: a write while BUSY. -/
theorem test_stray_write :
    faultOf (hostDoes (.writeReg 3 32 1) { State.reset with status := ⟨true, false, .none, .none⟩ }) =
      some .accessWhileBusy := by decide

/-- R200: reset while BUSY. -/
theorem test_reset_while_busy :
    (stateOf (hostDoes .reset { withBuf frame with status := ⟨true, false, .none, .none⟩, a := 6 })).map
      (fun t => (t.status.toByte, t.a, t.buflen, t.buf.read? 0)) = some (0x00, 0, 0, none) := by decide

/-- R71 to R73: each refusal by its name. -/
theorem test_refusals :
    [hostDoes (.readReg 9 8) State.reset, hostDoes (.readReg 3 16) State.reset, hostDoes (.writeReg 4 16 65536) State.reset,
      hostDoes (.readBuf 2100) State.reset, hostDoes (.writeWord 125 0) State.reset,
      hostDoes (.writeReg 5 16 2101) State.reset, hostDoes (.writeReg 6 16 126) State.reset].map refusalOf =
    [some .noSuchRegister, some .wrongWidth, some .valueTooWide, some .bufIndexOutside, some .wbufIndexOutside,
      some .buflenAboveCapacity, some .wcntAboveCapacity] := by decide

/-- R44: a written cell reads its value. -/
theorem test_read_written_cell :
    (stateOf (hostDoes (.readBuf 7) (withBuf frame))).map (·.observed) = some [.byte 7 0x03] := by decide

/-- V120: a reserved code, run from the CMD write's completion. -/
theorem test_step_reserved :
    (stateOf (step (State.reset.withFetchWord 8 0x50))).map (fun t => (t.status.toByte, t.crc, t.events)) =
      some (0x60, 0xFFFF, []) := by decide

/-- V1, through the step. -/
theorem test_step_crccalc :
    (stateOf (step ({ State.reset with crc := 0x0BC4 }.withFetchWord 8 0x10))).map (fun t => (t.status.toByte, t.crc)) =
      some (0x00, 0xFFFF) := by decide

/-- R101: the turns of `CRC16 6, 6` when no poll finds BUSY. -/
theorem test_crc16_line :
    (ScriptLine.crc16 6 6 0).expand =
      [.host (.writeReg 3 32 6), .host (.writeReg 4 16 6), .host (.writeReg 0 8 0x10), .block, .host (.readReg 1 8)] := by
  decide

/-! ### Witnesses: for each statement with hypotheses, a state and operands that meet them together -/

/-- A running command with its completion next: the code `c` in flight. -/
def running (c : Byte) (s : State) : State := { s with cmd := c, status := { s.status with busy := true }, events := [.block] }

/-- The frame of V20, N = 8. -/
def accepted : State := { withBuf [0x01, 0x03, 0x00, 0x00, 0x00, 0x02, 0xC4, 0x0B] with n := 8 }

/-- The smallest capacities, both buffers full: BUFLEN = 6 and WCNT = 4. -/
def full : State := loaded tiny [0x41, 0x42, 0x43, 0x44, 0x45, 0x46] [0x1111, 0x2222, 0x3333, 0x4444]

theorem witness_DecodeEncodeAgree : decode 0x10#8 = .command .crccalc := by decide

theorem witness_HostResetGivesTheResetState :
    ({ running 0x10 full with events := [.host .reset] } : State).events = .host .reset :: [] := rfl

theorem witness_StepKeepsTheInvariant : full.Inv ∧ ∃ t, step { full with events := [.host (.writeBuf 5 0)] } = .next t :=
  ⟨by decide, _, rfl⟩

theorem witness_StepRunsTheDecodedCommand :
    (running 0x41 full).status.busy = true ∧ Claims.blockIsNext (running 0x41 full) ∧
      decode (running 0x41 full).cmd = .command .widen ∧
      Claims.blockIsNext { running 0x41 full with events := [] } :=
  ⟨rfl, .inr ⟨[], rfl⟩, by decide, .inl rfl⟩

theorem witness_CmdWriteStartsTheCommand :
    ({ full with events := [.host (.writeReg 0 8 255)] } : State).status.busy = false ∧ 255 < 256 := by decide

/-- Any number of polls, any command. -/
theorem witness_CommandLineRunsUnderEveryLatency (i : Instr) (k : Nat) :
    ({ full with events := cmdEvents (encode i) k ++ [] } : State).status.busy = false ∧
      ∃ t, exec i (Claims.inFlight full i k (rdEvent .status :: [])) = .next t :=
  ⟨rfl, exec_completes _ _⟩

/-- The ends of each range of R94. -/
theorem witness_ReservedCodeCompletesIllegal :
    full.status.busy = false ∧ ∀ c ∈ [0x00, 0x0F, 0x12, 0x1F, 0x28, 0x2F, 0x32, 0x3F, 0x42, 0x4F, 0x50, 0xFF],
      Claims.reservedCode c := by
  unfold Claims.reservedCode; decide

theorem witness_EveryRunningCommandCompletes :
    (running 0xFF full).status.busy = true ∧ Claims.blockIsNext (running 0xFF full) := ⟨rfl, .inr ⟨[], rfl⟩⟩

theorem witness_IdleBlockWaits :
    full.status.busy = false ∧ Claims.blockIsNext full ∧ Claims.blockIsNext { full with events := [.block] } :=
  ⟨rfl, .inl rfl, .inr ⟨[], rfl⟩⟩

/-- Idle with each register, and BUSY with STATUS. -/
theorem witness_RegisterReadsReturnTheRegister :
    (∀ row ∈ Claims.registerTable,
      ({ full with events := [.host (.readReg row.2.1 row.2.2)] } : State).status.busy = false) ∧
      (Reg.status, 1, 8) ∈ Claims.registerTable ∧
      ({ running 0x10 full with events := [.host (.readReg 1 8)] } : State).events = [.host (.readReg 1 8)] := by
  decide

/-- The largest value of every register. -/
theorem witness_RegisterWritesStoreTheValue :
    full.status.busy = false ∧ ∀ p ∈ [(Reg.status, 1, 8, 255), (.cfg, 2, 8, 255), (.a, 3, 32, 4294967295), (.n, 4, 16, 65535),
      (.buflen, 5, 16, 6), (.wcnt, 6, 16, 4), (.crc, 7, 16, 65535), (.v, 8, 64, 18446744073709551615)],
        (p.1, p.2.1, p.2.2.1) ∈ Claims.registerTable ∧ p.1 ≠ Reg.cmd ∧ p.2.2.2 < 2 ^ p.2.2.1 ∧
        (p.1 = .buflen → p.2.2.2 ≤ full.params.bufCap) ∧ (p.1 = .wcnt → p.2.2.2 ≤ full.params.wcap) := by decide

theorem witness_BufWriteThenReadReturnsTheByte :
    ({ full with events := [.host (.writeBuf 5 0xAA), .host (.readBuf 5)] } : State).status.busy = false ∧
      5 < full.params.bufCap := by decide

theorem witness_WordWriteThenReadReturnsTheWord :
    ({ full with events := [.host (.writeWord 3 0xAAAA), .host (.readWord 3)] } : State).status.busy = false ∧
      3 < full.params.wcap := by decide

/-- A load that fills the buffer, and an empty one. -/
theorem witness_LoadbFillsTheBuffer :
    full.status.busy = false ∧ full.params.wf = true ∧ [1, 2, 3, 4, 5, 6].length ≤ full.params.bufCap ∧
      ({ full with events := (ScriptLine.loadb [1, 2, 3, 4, 5, 6]).expand ++ [] } : State).events.length = 7 ∧
      (ScriptLine.loadb []).expand.length = 1 := by decide

/-- Every kind of primitive the statement speaks of. -/
theorem witness_AccessWhileBusyFaults :
    (running 0x10 full).status.busy = true ∧
      ∀ p ∈ [Primitive.readReg 0 8, .readReg 2 8, .readReg 9 8, .writeReg 0 8 0x10, .writeReg 1 8 0, .readBuf 0,
        .writeBuf 0 0, .readWord 0, .writeWord 0 0], p ≠ .reset ∧ ∀ width, p ≠ .readReg 1 width := by
  refine ⟨rfl, ?_⟩
  intro p hp
  fin_cases hp <;> exact ⟨by decide, by intro width h; cases h⟩

theorem witness_OperandsHeldWhileBusy :
    (running 0x10 full).status.busy = true ∧ Primitive.readReg 1 8 ≠ .reset ∧
      ∃ t, step { running 0x10 full with events := [.host (.readReg 1 8), .block] } = .next t :=
  ⟨rfl, by decide, _, rfl⟩

/-- Both sides: a turn inside the contract at its limit, and one outside it. -/
theorem witness_StopsExactlyOutsideTheContract :
    ((Primitive.writeReg 5 16 6).wf full.params = true ∧ full.status.busy = false) ∧
      refusalOf (hostDoes (.writeReg 5 16 7) full) = some .buflenAboveCapacity := by decide

/-- The turns of program P1 with a poll that finds BUSY. -/
theorem witness_ObedientHostNeverStops :
    (State.reset.load [.reset, .loadb frame, .crc16 6 6 1, .rd .crc, .wb 12 0xC4, .wb 13 0x0B, .wr .buflen 14,
      .crc16 6 8 0, .rd .crc]).HostObeys := by decide

/-- The two ranges meet at A = BUFLEN. -/
theorem witness_RangeFunctionLaws : 11 < 12 ∧ 12 ≤ 12 := by decide

/-- CRCVAL at the limits of its first two tests: N = 5, and N = 6 with BUFLEN = 5. -/
theorem witness_CrcvalAnswersTheFrame_lengths :
    ({ full with n := 5 } : State).n.toNat < 6 ∧ 6 ≤ ({ full with n := 6, buflen := 5 } : State).n.toNat ∧
      ({ full with n := 6, buflen := 5 } : State).buflen.toNat < ({ full with n := 6, buflen := 5 } : State).n.toNat := by
  decide

/-- A six-byte frame in a full buffer, with this unit id. -/
def unitFrame (u : Byte) : State := { withBuf [u, 0, 0, 0, 0, 0] with n := 6 }

/-- CRCVAL just outside the unit ids. -/
theorem witness_CrcvalAnswersTheFrame_units :
    ∀ u ∈ [0x00#8, 0xF8#8], 6 ≤ (unitFrame u).n.toNat ∧ (unitFrame u).n.toNat ≤ (unitFrame u).buflen.toNat ∧
      (((unitFrame u).bufRead 0 0).toNat < 1 ∨ 247 < ((unitFrame u).bufRead 0 0).toNat) := by decide

/-- The frame of V29 (unit id 1, N = BUFLEN = 6), and that of V27 (unit id 247). -/
def shortest : State := { withBuf [0x01, 0x03, 0x00, 0x00, 0xF1, 0xD8] with n := 6 }

/-- V27. -/
def lastUnit : State := { withBuf [0xF7, 0x03, 0x00, 0x00, 0x00, 0x01, 0x90, 0x9C] with n := 8 }

/-- CRCVAL at the outermost unit ids, with a matching trailer and another. -/
theorem witness_CrcvalAnswersTheFrame_trailer :
    (6 ≤ shortest.n.toNat ∧ shortest.n.toNat ≤ shortest.buflen.toNat ∧ (shortest.bufRead 0 0).toNat = 1) ∧
      Claims.trailerIs shortest (crcBits (Claims.visited shortest 1 0 (shortest.n.toNat - 2))) ∧
      (lastUnit.bufRead 0 0).toNat = 247 ∧
      Claims.trailerIs lastUnit (crcBits (Claims.visited lastUnit 1 0 (lastUnit.n.toNat - 2))) ∧
      ¬ Claims.trailerIs (unitFrame 1) (crcBits (Claims.visited (unitFrame 1) 1 0 ((unitFrame 1).n.toNat - 2))) := by
  unfold Claims.trailerIs
  exact ⟨by decide, by decide +kernel, by decide, by decide +kernel, by decide +kernel⟩

/-- The frame of V20 is accepted; its first and last bytes are cells the flip may change. -/
theorem witness_SingleBitFlipIsRejected :
    (stateOf (exec .crcval accepted)).map (fun t => (t.status.err, t.status.valid)) = some (.none, true) ∧
      0 < accepted.n.toNat ∧ 7 < accepted.n.toNat ∧ accepted.buf.read? 0 = some 0x01#8 ∧
      accepted.buf.read? 7 = some 0x0B#8 := by decide

theorem witness_TwoWordsBecomeAValue :
    (∀ o, (withWords o [1, 2]).wcnt.toNat = 2 ∧ (withWords o [1, 2]).order = o) ∧
      (withWords .lowWordFirst [1]).wcnt.toNat ≠ 2 ∧ (withWords .lowWordFirst [1, 2, 3]).wcnt.toNat ≠ 2 :=
  ⟨fun _ => ⟨rfl, rfl⟩, by decide, by decide⟩

theorem witness_FourWordsBecomeAValue :
    (∀ o, (withWords o [1, 2, 3, 4]).wcnt.toNat = 4 ∧ (withWords o [1, 2, 3, 4]).order = o) ∧
      (withWords .lowWordFirst [1, 2, 3]).wcnt.toNat ≠ 4 ∧ (withWords .lowWordFirst [1, 2, 3, 4, 5]).wcnt.toNat ≠ 4 :=
  ⟨fun _ => ⟨rfl, rfl⟩, by decide, by decide⟩

theorem witness_ValueBecomesTwoWords :
    (withWords .lowWordFirst []).order = .lowWordFirst ∧ (withWords .highWordFirst []).order = .highWordFirst :=
  ⟨rfl, rfl⟩

theorem witness_ValueBecomesFourWords :
    (withWords .lowWordFirst []).order = .lowWordFirst ∧ (withWords .highWordFirst []).order = .highWordFirst :=
  ⟨rfl, rfl⟩

theorem witness_ValueRoundTripIsExact :
    ((Instr.i322r = .i322r ∧ Instr.r2i32 = .r2i32) ∨ (Instr.i322r = .f322r ∧ Instr.r2i32 = .r2f32)) ∧
      ((Instr.f642r = .i642r ∧ Instr.r2f64 = .r2i64) ∨ (Instr.f642r = .f642r ∧ Instr.r2f64 = .r2f64)) := by decide

theorem witness_WordRoundTripIsExact :
    (withWords .highWordFirst [1, 2]).WbufWritten ∧ (withWords .highWordFirst [1, 2]).wcnt.toNat = 2 ∧
      (withWords .lowWordFirst [1, 2, 3, 4]).WbufWritten ∧
      (withWords .lowWordFirst [1, 2, 3, 4]).wcnt.toNat = 4 := by decide

theorem witness_CrossOrderRoundTripReversesTheWords :
    WordOrder.highWordFirst ≠ State.reset.order ∧
      ((Instr.f322r = .i322r ∧ Instr.r2f32 = .r2i32) ∨ (Instr.f322r = .f322r ∧ Instr.r2f32 = .r2f32)) ∧
      ((Instr.i642r = .i642r ∧ Instr.r2i64 = .r2i64) ∨ (Instr.i642r = .f642r ∧ Instr.r2i64 = .r2f64)) := by decide

/-- Success at both limits, and either limit exceeded by one. -/
theorem witness_RegistersBecomeAString :
    (let s : State := { full with a := 1, n := 6 };
      s.a.toNat + (s.n.toNat + 1) / 2 ≤ s.wcnt.toNat ∧ s.n.toNat ≤ s.params.bufCap) ∧
    (let s : State := { full with a := 2, n := 5 }; s.wcnt.toNat < s.a.toNat + (s.n.toNat + 1) / 2) ∧
    (let s : State := { full with a := 0, n := 7 }; s.params.bufCap < s.n.toNat) := by decide

/-- Exactly the capacity, and one byte more. -/
theorem witness_StringBecomesRegisters :
    (let s := loaded ⟨2100, 4⟩ (List.replicate 8 0x31) []; (s.buflen.toNat + 1) / 2 ≤ s.params.wcap) ∧
    (let s := loaded ⟨2100, 4⟩ (List.replicate 9 0x31) []; s.params.wcap < (s.buflen.toNat + 1) / 2) := by decide

theorem witness_StringRoundTripKeepsTheBytes :
    let s := loaded tiny [0x41, 0x42, 0x43, 0x44, 0x45, 0x46] [];
    s.Inv ∧ s.BufWritten ∧ s.buflen.toNat ≤ 2 * s.params.wcap := by decide

/-- Three words, A = 0: N = 6 and N = 5. -/
theorem witness_WordsRoundTripThroughAString :
    let s := loaded tiny [] [0x1111, 0x2222, 0x3333];
    (s.Inv ∧ s.WbufWritten ∧ s.wcnt.toNat = 3 ∧ s.a = 0#32) ∧
      (({ s with n := 6 } : State).n.toNat = 2 * 3 ∧ 2 * 3 ≤ s.params.bufCap) ∧
      (({ s with n := 5 } : State).n.toNat + 1 = 2 * 3 ∧ s.wbuf.read? 2 = some 0x3333#16) := by decide

/-- Success at both limits, and either limit exceeded by one. -/
theorem witness_WireBytesBecomeWords :
    (let s : State := { loaded ⟨8, 4⟩ (List.replicate 8 0x31) [] with a := 0, n := 4 };
      s.a.toNat + 2 * s.n.toNat ≤ s.buflen.toNat ∧ s.n.toNat ≤ s.params.wcap) ∧
    (let s : State := { loaded ⟨8, 4⟩ (List.replicate 8 0x31) [] with a := 1, n := 4 };
      s.buflen.toNat < s.a.toNat + 2 * s.n.toNat) ∧
    (let s : State := { full with a := 0, n := 5 }; s.params.wcap < s.n.toNat) := by decide

/-- A = WCNT - 1 and A = WCNT. -/
theorem witness_WidenSignExtendsTheWord :
    (let s : State := { full with a := 3 }; s.a.toNat < s.wcnt.toNat) ∧
    (let s : State := { full with a := 4 }; s.wcnt.toNat ≤ s.a.toNat) := by decide

/-- Each of the three errors. -/
theorem witness_ErrorsArePrecise :
    (stateOf (runDecoded .illegalCommand full)).map (·.status.err) = some .illegalCommand ∧
      (stateOf (runDecoded (.command .r2i32) full)).map (·.status.err) = some .arityError ∧
      (stateOf (runDecoded (.command .crcval) { full with n := 7 })).map (·.status.err) = some .boundsError := by decide

/-- Every command, every state. -/
theorem witness_CommandsChangeOnlyWhatTheirRuleNames (i : Instr) (s : State) : ∃ t, exec i s = .next t :=
  exec_completes i s

/-- An accepted frame, a rejected one, and a command that writes no verdict. -/
theorem witness_VerdictIsWrittenByCrcvalAlone :
    (stateOf (runDecoded (.command .crcval) accepted)).map (fun t => (t.status.err, t.status.valid)) = some (.none, true) ∧
      (stateOf (runDecoded (.command .crcval) full)).map (fun t => (t.status.err, t.status.valid)) =
        some (.none, false) ∧
      (Decoded.command .crccalc ≠ .command .crcval) := by decide

theorem witness_CommandsAreIdempotent (i : Instr) :
    full.Inv ∧ full.WrittenBelowLengths ∧ ∃ t, exec i full = .next t :=
  ⟨by decide, by decide, exec_completes i full⟩

theorem witness_WrittenBuffersHideNoFreeValue (i : Instr) :
    full.WrittenBelowLengths ∧ ∃ t, exec i full = .next t := ⟨by decide, exec_completes i full⟩

theorem witness_UnreadRegistersHaveNoInfluence (i : Instr) : ∃ t, exec i full = .next t := exec_completes i full

/-- A verdict without an error, and a CRCVAL with one. -/
theorem witness_StatusIsNoOperand :
    (∀ i, ∃ t, exec i full = .next t) ∧ (stateOf (exec .crcval accepted)).map (·.status.err) = some .none ∧
      (stateOf (exec .crcval { full with n := 7 })).map (·.status.err) = some .boundsError :=
  ⟨fun i => exec_completes i full, by decide, by decide⟩

/-- A cell at the length itself may differ. -/
theorem witness_CellsOutsideTheLengthsAreNotSeen (i : Instr) :
    let s : State := { full with buflen := 5, wcnt := 2 };
    (∀ j < s.buflen.toNat, (s.buf.write 5 0xAA).read? j = s.buf.read? j) ∧
      (∀ k < s.wcnt.toNat, (s.wbuf.write 2 0xAAAA).read? k = s.wbuf.read? k) ∧ ∃ t, exec i s = .next t :=
  ⟨by decide, by decide, exec_completes i _⟩

/-- A load that fills the word buffer, and an empty one. -/
theorem witness_LoadwFillsTheWordBuffer :
    full.status.busy = false ∧ full.params.wf = true ∧ [1, 2, 3, 4].length ≤ full.params.wcap ∧
      ({ full with events := (ScriptLine.loadw [1, 2, 3, 4]).expand ++ [] } : State).events.length = 5 ∧
      (ScriptLine.loadw []).expand.length = 1 := by decide

/-- The last cell of each buffer, at or above the length. -/
theorem witness_WrittenCellsReadTheirValue :
    let s : State := { full with buflen := 5, wcnt := 0 };
    s.status.busy = false ∧ (5 < s.params.bufCap ∧ s.buf.read? 5 = some 0x46#8) ∧
      (3 < s.params.wcap ∧ s.wbuf.read? 3 = some 0x4444#16) := by decide

/-- The last byte R2STR stores in the whole of BUF, and the last word STR2R and a value-to-registers command store. -/
theorem witness_HostReadsWhatACommandStored :
    full.Inv ∧ ({ full with n := 6 } : State).Inv ∧
      (stateOf (exec .r2str { full with n := 6 })).map (·.status.err) = some .none ∧
      5 < Claims.storedBytes .r2str { full with n := 6 } ∧
      (stateOf (exec .str2r full)).map (·.status.err) = some .none ∧ 2 < Claims.storedWords .str2r full ∧
      (stateOf (exec .i642r full)).map (·.status.err) = some .none ∧ 3 < Claims.storedWords .i642r full := by decide

/-- Each register written by a command that does not read it, and kept by one. -/
theorem witness_UnreadResultsAndLengthsHaveNoInfluence :
    (∀ i, ∃ t, exec i full = .next t) ∧
      (Instr.r2i64 ∈ Claims.writesV ∧ (stateOf (exec .r2i64 full)).map (·.status.err) = some .none) ∧
      (Instr.crccalc ∉ Claims.writesV ∧ Instr.crccalc ∉ [Instr.i322r, .i642r, .f322r, .f642r]) ∧
      ((0xFFFFFFFF00000000#64).extractLsb' 0 32 = full.v.extractLsb' 0 32) ∧
      (Claims.crcWritten .crccalc full ∧ ¬ Claims.crcWritten .widen full) ∧
      (stateOf (exec .r2str { full with n := 6 })).map (·.status.err) = some .none ∧
      (Instr.str2r ∈ Claims.writesWcnt ∧ (stateOf (exec .str2r full)).map (·.status.err) = some .none) ∧
      Instr.crcval ∉ Claims.writesWcnt := by
  refine ⟨fun i => exec_completes i full, by decide, by decide, by decide, ⟨.inl rfl, ?_⟩, by decide, by decide, by decide⟩
  unfold Claims.crcWritten; decide

end Sys2Proof.Tests
end

/-! SUPPORT. A command as one operation on the state: what each of the 14 commands does when it raises no error, and
that its completion is this operation or the error alone (10_state.md R49, 60_exceptions.md R173). -/

namespace Sys2Proof.Proofs

open Sys2Proof.Machine Sys2Proof.Claims

/-- What a command that raises no error does, with the values it computed (10_state.md R49). -/
inductive Op where
  /-- CRCCALC: a checksum for CRC. -/
  | checksum (c : BitVec 16)
  /-- CRCVAL answered before the recomputation. -/
  | verdict (r : Reason)
  /-- CRCVAL answered after it, with the checksum of the frame. -/
  | frame (c : BitVec 16) (r : Reason)
  /-- A registers-to-value command or WIDEN: V. -/
  | value (x : BitVec 64)
  /-- The commands that store words from index 0 and set WCNT. -/
  | words (ws : List Word)
  /-- R2STR: bytes from index 0, and BUFLEN. -/
  | bytes (bs : List Byte)

/-- The state after the operation and the completion event. -/
def Op.apply (s : State) : Op → State
  | .checksum c => { s with crc := c }.complete .none
  | .verdict r => s.answer r
  | .frame c r => { s with crc := c }.answer r
  | .value x => { s with v := x }.complete .none
  | .words ws => (s.storeWords ws).complete .none
  | .bytes bs => { s.storeBytes bs with buflen := s.n }.complete .none

/-- The operation of each command, on a state where it raises no error. -/
def operation (i : Instr) (s : State) : Op :=
  match i with
  | .crccalc => .checksum (crcRange s.bufRead s.start s.count s.bufBound)
  | .crcval =>
    if s.n.toNat < 6 then .verdict .tooShort
    else if s.unitIdOutside then .verdict .unitIdRange
    else .frame s.frameCrc (if s.trailerMatches then .none else .crcMismatch)
  | .r2i32 | .r2f32 => .value (zext64 (combine2 s.order (s.wbufRead 0 0) (s.wbufRead 1 1)))
  | .r2i64 | .r2f64 =>
    .value (combine4 s.order (s.wbufRead 0 0) (s.wbufRead 1 1) (s.wbufRead 2 2) (s.wbufRead 3 3))
  | .i322r | .f322r => .words (split2 s.order s.value32)
  | .i642r | .f642r => .words (split4 s.order s.v)
  | .r2str => .bytes s.stringBytes
  | .str2r => .words s.stringWords
  | .ldwbe => .words s.wireWords
  | .widen => .value (zext64 (sext32 (s.wbufRead 0 s.start)))

/-- The commands that perform an operation, and the sizes of what it stores. -/
def Op.belongsTo (i : Instr) (s : State) : Op → Prop
  | .checksum _ => i = .crccalc
  | .verdict r => i = .crcval ∧ (r = .tooShort ∨ r = .unitIdRange)
  | .frame _ r => i = .crcval ∧ (r = .none ∨ r = .crcMismatch)
  | .value _ => i ∈ writesV
  | .words ws => i ∈ writesWcnt ∧ ws.length = storedWords i s
  | .bytes bs => i = .r2str ∧ bs.length = storedBytes i s

/-- Where a command ends: its operation if it raises no error, the error code alone if it raises one. -/
def ending (i : Instr) (s : State) : State :=
  if errorOf i s = .none then (operation i s).apply s else s.complete (errorOf i s)

theorem ending_of_none {i : Instr} {s : State} (h : errorOf i s = .none) : ending i s = (operation i s).apply s :=
  if_pos h

theorem ending_of_error {i : Instr} {s : State} {e : Err} (h : errorOf i s = e) (he : e ≠ .none) :
    ending i s = s.complete e := by
  subst h
  exact if_neg he

theorem toValue32_eq_ending (s : State) : s.toValue32 = ending .r2i32 s := by
  obtain ⟨h, e⟩ | ⟨h, e⟩ := toValue32_cases s
  · have h0 : errorOf .r2i32 s = .none := if_pos h
    exact e.trans (ending_of_none h0).symm
  · have h1 : errorOf .r2i32 s = .arityError := if_neg h
    exact e.trans (ending_of_error h1 nofun).symm

theorem toValue64_eq_ending (s : State) : s.toValue64 = ending .r2i64 s := by
  obtain ⟨h, e⟩ | ⟨h, e⟩ := toValue64_cases s
  · have h0 : errorOf .r2i64 s = .none := if_pos h
    exact e.trans (ending_of_none h0).symm
  · have h1 : errorOf .r2i64 s = .arityError := if_neg h
    exact e.trans (ending_of_error h1 nofun).symm

theorem execCrcval_eq_ending (s : State) : execCrcval s = .next (ending .crcval s) := by
  have herr : errorOf .crcval s = if 6 ≤ s.n.toNat ∧ s.buflen.toNat < s.n.toNat then .boundsError else .none := rfl
  obtain ⟨h, e⟩ | ⟨h, hl, e⟩ | ⟨h, hl, hu, e⟩ | ⟨h, hl, hu, e⟩ := execCrcval_cases s
  · rw [if_neg (by omega)] at herr
    rw [e, ending_of_none herr, operation, if_pos h, Op.apply]
  · rw [if_pos ⟨h, hl⟩] at herr
    rw [e, ending_of_error herr nofun]
  · rw [if_neg (by omega)] at herr
    rw [e, ending_of_none herr, operation, if_neg (Nat.not_lt.mpr h), if_pos hu, Op.apply]
  · rw [if_neg (by omega)] at herr
    rw [e, ending_of_none herr, operation, if_neg (Nat.not_lt.mpr h), if_neg (Bool.eq_false_iff.mp hu), Op.apply]

theorem execR2str_eq_ending (s : State) : execR2str s = .next (ending .r2str s) := by
  obtain ⟨h, hn, e⟩ | ⟨h, e⟩ := execR2str_cases s
  · have h0 : errorOf .r2str s = .none := if_neg (not_or.mpr ⟨h.not_gt, hn.not_gt⟩)
    exact e.trans (congrArg _ (ending_of_none h0).symm)
  · have h1 : errorOf .r2str s = .boundsError := if_pos h
    exact e.trans (congrArg _ (ending_of_error h1 nofun).symm)

theorem execStr2r_eq_ending (s : State) : execStr2r s = .next (ending .str2r s) := by
  obtain ⟨h, e⟩ | ⟨h, e⟩ := execStr2r_cases s
  · have h0 : errorOf .str2r s = .none := if_neg h.not_gt
    exact e.trans (congrArg _ (ending_of_none h0).symm)
  · have h1 : errorOf .str2r s = .boundsError := if_pos h
    exact e.trans (congrArg _ (ending_of_error h1 nofun).symm)

theorem execLdwbe_eq_ending (s : State) : execLdwbe s = .next (ending .ldwbe s) := by
  obtain ⟨h, hn, e⟩ | ⟨h, e⟩ := execLdwbe_cases s
  · have h0 : errorOf .ldwbe s = .none := if_neg (not_or.mpr ⟨h.not_gt, hn.not_gt⟩)
    exact e.trans (congrArg _ (ending_of_none h0).symm)
  · have h1 : errorOf .ldwbe s = .boundsError := if_pos h
    exact e.trans (congrArg _ (ending_of_error h1 nofun).symm)

theorem execWiden_eq_ending (s : State) : execWiden s = .next (ending .widen s) := by
  obtain ⟨h, e⟩ | ⟨h, e⟩ := execWiden_cases s
  · have h0 : errorOf .widen s = .none := if_neg h.not_ge
    exact e.trans (congrArg _ (ending_of_none h0).symm)
  · have h1 : errorOf .widen s = .boundsError := if_pos h
    exact e.trans (congrArg _ (ending_of_error h1 nofun).symm)

/-- Every command completes with its operation or with its error alone. -/
theorem exec_eq_ending (i : Instr) (s : State) : exec i s = .next (ending i s) := by
  cases i with
  | r2i32 | r2f32 => exact congrArg Host.Outcome.next (toValue32_eq_ending s)
  | r2i64 | r2f64 => exact congrArg Host.Outcome.next (toValue64_eq_ending s)
  | crcval => exact execCrcval_eq_ending s
  | r2str => exact execR2str_eq_ending s
  | str2r => exact execStr2r_eq_ending s
  | ldwbe => exact execLdwbe_eq_ending s
  | widen => exact execWiden_eq_ending s
  | crccalc | i322r | f322r | i642r | f642r => rfl

theorem operation_belongsTo (i : Instr) (s : State) : (operation i s).belongsTo i s := by
  cases i with
  | crcval =>
    simp only [operation]
    split
    · exact ⟨rfl, .inl rfl⟩
    · split
      · exact ⟨rfl, .inr rfl⟩
      · refine ⟨rfl, ?_⟩
        split <;> simp
  | crccalc => rfl
  | r2i32 | r2f32 | r2i64 | r2f64 | widen => simp [operation, Op.belongsTo, writesV]
  | i322r | f322r => simp [operation, Op.belongsTo, writesWcnt, storedWords, split2_length]
  | i642r | f642r => simp [operation, Op.belongsTo, writesWcnt, storedWords, split4_length]
  | r2str => exact ⟨rfl, stringBytes_length s⟩
  | str2r => exact ⟨by simp [writesWcnt], stringWords_length s⟩
  | ldwbe => exact ⟨by simp [writesWcnt], wireWords_length s⟩

/-- The two ends of every command: an error and nothing else, or an operation that belongs to it. -/
theorem exec_cases {i : Instr} {s t : State} (h : exec i s = .next t) :
    (∃ e, e ≠ .none ∧ t = s.complete e) ∨
      (errorOf i s = .none ∧ ∃ op : Op, op.belongsTo i s ∧ t = op.apply s) := by
  rw [exec_eq_ending, Host.Outcome.next.injEq] at h
  subst h
  unfold ending
  split
  · exact .inr ⟨‹_›, _, operation_belongsTo i s, rfl⟩
  · exact .inl ⟨_, ‹_›, rfl⟩

section Apply
variable (s : State) (op : Op)

@[simp] theorem Op.apply_params : (op.apply s).params = s.params := by cases op <;> rfl
@[simp] theorem Op.apply_cmd : (op.apply s).cmd = s.cmd := by cases op <;> rfl
@[simp] theorem Op.apply_busy : (op.apply s).status.busy = false := by cases op <;> rfl
@[simp] theorem Op.apply_err : (op.apply s).status.err = .none := by cases op <;> rfl
@[simp] theorem Op.apply_order : (op.apply s).order = s.order := by cases op <;> rfl
@[simp] theorem Op.apply_a : (op.apply s).a = s.a := by cases op <;> rfl
@[simp] theorem Op.apply_n : (op.apply s).n = s.n := by cases op <;> rfl
@[simp] theorem Op.apply_events : (op.apply s).events = s.events := by cases op <;> rfl
@[simp] theorem Op.apply_observed : (op.apply s).observed = s.observed := by cases op <;> rfl
@[simp] theorem Op.apply_draws : (op.apply s).draws = s.draws := by cases op <;> rfl

end Apply

/-- A command without an error stores inside the capacities (10_state.md R49, 00_scope.md R10). -/
theorem stored_within_capacity {i : Instr} {s : State} (hp : s.params.wf = true) (h : errorOf i s = .none) :
    storedBytes i s ≤ s.params.bufCap ∧ storedWords i s ≤ s.params.wcap := by
  have hw : 4 ≤ s.params.wcap := by
    simp only [Config.Params.wf, Bool.and_eq_true, decide_eq_true_eq] at hp
    omega
  cases i with
  | r2str | str2r | ldwbe =>
    simp only [errorOf, ite_eq_right_iff, reduceCtorEq, imp_false] at h
    simp only [storedBytes, storedWords]
    omega
  | crccalc | crcval | r2i32 | r2i64 | r2f32 | r2f64 | i322r | i642r | f322r | f642r | widen =>
    simp only [storedBytes, storedWords]
    omega

end Sys2Proof.Proofs

/-! SUPPORT. The invariant of 10_state.md R42 under each operation, and what a host primitive can do. -/

namespace Sys2Proof.Proofs

open Sys2Proof.Machine Sys2Proof.Claims

theorem Op.apply_inv {i : Instr} {s : State} {op : Op} (hs : s.Inv) (h : errorOf i s = .none)
    (hop : op.belongsTo i s) : (op.apply s).Inv := by
  have hst := stored_within_capacity hs.1 h
  obtain ⟨hp, hbl, hwc, hv, hbw, hbb, hww, hwb⟩ := hs
  cases op with
  | checksum c => exact ⟨hp, hbl, hwc, hv, hbw, hbb, hww, hwb⟩
  | value x => exact ⟨hp, hbl, hwc, hv, hbw, hbb, hww, hwb⟩
  | verdict r => exact ⟨hp, hbl, hwc, of_decide_eq_true, hbw, hbb, hww, hwb⟩
  | frame c r => exact ⟨hp, hbl, hwc, of_decide_eq_true, hbw, hbb, hww, hwb⟩
  | words ws =>
    have hlen : ws.length ≤ s.params.wcap := hop.2 ▸ hst.2
    have hcnt : (BitVec.ofNat 16 ws.length).toNat ≤ s.params.wcap :=
      (BitVec.toNat_ofNat ws.length 16).trans_le ((Nat.mod_le _ _).trans hlen)
    exact ⟨hp, hbl, hcnt, hv, hbw, hbb, Memory.wf_writeAll _ _ _ hww,
      Memory.below_writeAll _ _ _ _ hwb ((Nat.zero_add _).trans_le hlen)⟩
  | bytes bs =>
    obtain ⟨rfl, hlen⟩ := hop
    have hn : bs.length ≤ s.params.bufCap := hlen ▸ hst.1
    exact ⟨hp, hst.1, hwc, hv, Memory.wf_writeAll _ _ _ hbw,
      Memory.below_writeAll _ _ _ _ hbb ((Nat.zero_add _).trans_le hn), hww, hwb⟩

theorem exec_inv {i : Instr} {s t : State} (hs : s.Inv) (h : exec i s = .next t) : t.Inv := by
  obtain ⟨e, -, rfl⟩ | ⟨h0, op, hop, rfl⟩ := exec_cases h
  · exact hs
  · exact op.apply_inv hs h0 hop

theorem blockTurn_inv {s t : State} (hs : s.Inv) (h : blockTurn s = .next t) : t.Inv := by
  unfold blockTurn at h
  split at h
  · cases hd : decode s.cmd with
    | command i => rw [hd] at h; exact exec_inv hs h
    | illegalCommand => rw [hd] at h; cases h; exact hs
  · cases h; exact hs

/-- What a host primitive inside the contract does (20_memory.md R70 to R73, 70_reset_and_hazards.md R200). -/
inductive HostEffect (s : State) : State → Prop where
  | read (o : Observation) : HostEffect s (s.observe o)
  | ignored : HostEffect s s
  | started (c : Byte) : HostEffect s (s.issue c)
  | order (o : WordOrder) : HostEffect s { s with order := o }
  | a (x : BitVec 32) : HostEffect s { s with a := x }
  | n (x : BitVec 16) : HostEffect s { s with n := x }
  | buflen (x : BitVec 16) (h : x.toNat ≤ s.params.bufCap) : HostEffect s { s with buflen := x }
  | wcnt (x : BitVec 16) (h : x.toNat ≤ s.params.wcap) : HostEffect s { s with wcnt := x }
  | v (x : BitVec 64) : HostEffect s { s with v := x }
  | byte (i : Nat) (b : Byte) (h : i < s.params.bufCap) : HostEffect s { s with buf := s.buf.write i b }
  | word (k : Nat) (w : Word) (h : k < s.params.wcap) : HostEffect s { s with wbuf := s.wbuf.write k w }
  | reset : HostEffect s s.hostReset

theorem hostReadReg_next {r width : Nat} {s t : State} (h : hostReadReg r width s = .next t) :
    ∃ o, t = s.observe o := by
  unfold hostReadReg at h
  split at h
  · cases h
  · split at h
    · cases h; exact ⟨_, rfl⟩
    · cases h

theorem writeReg_effect {r : Reg} {value : Nat} {s t : State} (h : s.writeReg r value = .next t) :
    HostEffect s t := by
  have fits {cap : Nat} (hc : value ≤ cap) : (BitVec.ofNat 16 value).toNat ≤ cap :=
    (BitVec.toNat_ofNat value 16).trans_le ((Nat.mod_le _ _).trans hc)
  cases r with
  | cmd => cases h; exact .started _
  | status | crc => cases h; exact .ignored
  | cfg => cases h; exact .order _
  | a => cases h; exact .a _
  | n => cases h; exact .n _
  | v => cases h; exact .v _
  | buflen =>
    simp only [State.writeReg] at h
    split at h
    · cases h; exact .buflen _ (fits ‹_›)
    · cases h
  | wcnt =>
    simp only [State.writeReg] at h
    split at h
    · cases h; exact .wcnt _ (fits ‹_›)
    · cases h

theorem hostWriteReg_next {r width value : Nat} {s t : State} (h : hostWriteReg r width value s = .next t) :
    ∃ reg, s.writeReg reg value = .next t := by
  unfold hostWriteReg at h
  split at h
  · cases h
  · split at h
    · split at h
      · exact ⟨_, h⟩
      · cases h
    · cases h

theorem access_effect {p : Primitive} {s t : State} (h : access p s = .next t) : HostEffect s t := by
  cases p with
  | readReg r width =>
    obtain ⟨o, rfl⟩ := hostReadReg_next h
    exact .read o
  | writeReg r width value =>
    obtain ⟨reg, hw⟩ := hostWriteReg_next h
    exact writeReg_effect hw
  | readBuf i =>
    simp only [access, hostReadBuf] at h
    split at h <;> cases h
    exact .read _
  | writeBuf i b =>
    simp only [access, hostWriteBuf] at h
    split at h <;> cases h
    exact .byte i b ‹_›
  | readWord k =>
    simp only [access, hostReadWord] at h
    split at h <;> cases h
    exact .read _
  | writeWord k w =>
    simp only [access, hostWriteWord] at h
    split at h <;> cases h
    exact .word k w ‹_›
  | reset => cases h; exact .reset

/-- A primitive that answers a next state was allowed and did its access (70_reset_and_hazards.md R210). -/
theorem perform_next {p : Primitive} {s t : State} (h : perform p s = .next t) :
    (s.status.busy = true → p.allowedWhileBusy = true) ∧ access p s = .next t := by
  unfold perform at h
  split at h
  · cases h
  · next hb => exact ⟨fun hbusy => by simpa [hbusy] using hb, h⟩

theorem HostEffect.inv {s t : State} (h : HostEffect s t) (hs : s.Inv) : t.Inv := by
  cases h with
  | read | ignored | started | order | a | n | v => exact hs
  | buflen x hx =>
    obtain ⟨hp, -, hrest⟩ := hs
    exact ⟨hp, hx, hrest⟩
  | wcnt x hx =>
    obtain ⟨hp, hbl, -, hrest⟩ := hs
    exact ⟨hp, hbl, hx, hrest⟩
  | byte i b hi =>
    obtain ⟨hp, hbl, hwc, hv, hbw, hbb, hw⟩ := hs
    exact ⟨hp, hbl, hwc, hv, Memory.wf_write _ _ _ hbw, Memory.below_write _ _ _ _ hbb hi, hw⟩
  | word k w hk =>
    obtain ⟨hp, hbl, hwc, hv, hbw, hbb, hww, hwb⟩ := hs
    exact ⟨hp, hbl, hwc, hv, hbw, hbb, Memory.wf_write _ _ _ hww, Memory.below_write _ _ _ _ hwb hk⟩
  | reset => exact ⟨hs.1, Nat.zero_le _, Nat.zero_le _, nofun, rfl, rfl, rfl, rfl⟩

/-- The turns a step can take. -/
theorem step_cases {s t : State} (h : step s = .next t) :
    t = s ∨ blockTurn s.tick = .next t ∨ ∃ p es, s.events = .host p :: es ∧ perform p s.tick = .next t := by
  unfold step at h
  split at h
  · split at h
    · exact .inr (.inl h)
    · cases h; exact .inl rfl
  · exact .inr (.inl h)
  · exact .inr (.inr ⟨_, _, ‹_›, h⟩)

/-- Settles O6: the block's turn and every host primitive keep the invariant. -/
theorem stepKeepsTheInvariant : Obligations.StepKeepsTheInvariant := by
  intro s t hs h
  have ht : s.tick.Inv := hs
  obtain rfl | hb | ⟨p, es, -, hp⟩ := step_cases h
  · exact hs
  · exact blockTurn_inv ht hb
  · exact (access_effect (perform_next hp).2).inv ht

/-- Settles O5: each part of the invariant is computed on the reset values. -/
theorem resetMeetsTheInvariant : Obligations.ResetMeetsTheInvariant :=
  ⟨rfl, Nat.zero_le _, Nat.zero_le _, nofun, rfl, rfl, rfl, rfl⟩

end Sys2Proof.Proofs

/-! SUPPORT. What each command leaves unchanged, what CRCVAL answers, and what the host reads back of a stored range
(10_state.md R27, R28, R48, R49). -/

namespace Sys2Proof.Proofs

open Sys2Proof.Machine Sys2Proof.Claims

/-- Two lists of commands with no member in common, told by computation. -/
theorem elim_of_disjoint {l m : List Instr} (h : ∀ i ∈ l, i ∉ m) {i : Instr} {P : Prop} (hl : i ∈ l) (hm : i ∈ m) : P :=
  absurd hm (h i hl)

section Kinds
variable {i : Instr} {s : State} {op : Op}

theorem Op.eq_checksum (hop : op.belongsTo .crccalc s) : ∃ c, op = .checksum c := by
  cases op with
  | checksum c => exact ⟨c, rfl⟩
  | verdict | frame | bytes => cases hop.1
  | value => exact absurd hop (by decide : Instr.crccalc ∉ writesV)
  | words => exact absurd hop.1 (by decide)

theorem Op.eq_answer (hop : op.belongsTo .crcval s) :
    (∃ r, op = .verdict r ∧ (r = .tooShort ∨ r = .unitIdRange)) ∨ ∃ c r, op = .frame c r := by
  cases op with
  | verdict r => exact .inl ⟨r, rfl, hop.2⟩
  | frame c r => exact .inr ⟨c, r, rfl⟩
  | checksum => cases hop
  | bytes => cases hop.1
  | value => exact absurd hop (by decide : Instr.crcval ∉ writesV)
  | words => exact absurd hop.1 (by decide)

theorem Op.eq_bytes (hop : op.belongsTo .r2str s) : ∃ bs, op = .bytes bs ∧ bs.length = s.n.toNat := by
  cases op with
  | bytes bs => exact ⟨bs, rfl, hop.2⟩
  | checksum => cases hop
  | verdict | frame => cases hop.1
  | value => exact absurd hop (by decide : Instr.r2str ∉ writesV)
  | words => exact absurd hop.1 (by decide)

theorem Op.eq_value (hop : op.belongsTo i s) (hi : i ∈ writesV) : ∃ x, op = .value x := by
  cases op with
  | value x => exact ⟨x, rfl⟩
  | words => exact elim_of_disjoint (by decide) hi hop.1
  | checksum => cases hop; exact absurd hi (by decide)
  | verdict | frame | bytes => cases hop.1; exact absurd hi (by decide)

theorem Op.eq_words (hop : op.belongsTo i s) (hi : i ∈ writesWcnt) :
    ∃ ws, op = .words ws ∧ ws.length = storedWords i s := by
  cases op with
  | words ws => exact ⟨ws, rfl, hop.2⟩
  | value => exact elim_of_disjoint (by decide) hi hop
  | checksum => cases hop; exact absurd hi (by decide)
  | verdict | frame | bytes => cases hop.1; exact absurd hi (by decide)

end Kinds

/-- R2STR is the one command that stores bytes (10_state.md R49). -/
theorem eq_r2str_of_storedBytes {i : Instr} {s : State} {j : Nat} (h : j < storedBytes i s) : i = .r2str := by
  cases i with
  | r2str => rfl
  | _ => exact absurd h (Nat.not_lt_zero j)

/-- The commands that store words are those that write WCNT (10_state.md R34, R49). -/
theorem mem_writesWcnt_of_storedWords {i : Instr} {s : State} {k : Nat} (h : k < storedWords i s) :
    i ∈ writesWcnt := by
  cases i with
  | i322r | i642r | f322r | f642r | str2r | ldwbe => decide
  | crccalc | crcval | r2i32 | r2i64 | r2f32 | r2f64 | r2str | widen => exact absurd h (Nat.not_lt_zero k)

section Frame
variable {i : Instr} {s : State} {op : Op}

theorem Op.apply_buflen (hop : op.belongsTo i s) (hi : i ≠ .r2str) : (op.apply s).buflen = s.buflen := by
  cases op with
  | bytes => exact absurd hop.1 hi
  | checksum | verdict | frame | value | words => rfl

theorem Op.apply_buf_outside (hop : op.belongsTo i s) (j : Nat) (hj : storedBytes i s ≤ j) :
    (op.apply s).buf.read? j = s.buf.read? j := by
  cases op with
  | bytes bs =>
    have hlen : 0 + bs.length ≤ j := (Nat.zero_add _).trans_le (hop.2.trans_le hj)
    exact Memory.read?_writeAll_outside bs s.buf 0 j (.inr hlen)
  | checksum | verdict | frame | value | words => rfl

theorem Op.apply_crc (hop : op.belongsTo i s) (hcalc : i ≠ .crccalc) (hval : i ≠ .crcval) :
    (op.apply s).crc = s.crc := by
  cases op with
  | checksum => exact absurd hop hcalc
  | frame => exact absurd hop.1 hval
  | verdict | value | words | bytes => rfl

/-- Every operation but an answer of CRCVAL keeps VALID and REASON (10_state.md R27, R28). -/
theorem Op.apply_keeps_verdict (hop : op.belongsTo i s) (hi : i ≠ .crcval) :
    (op.apply s).status.valid = s.status.valid ∧ (op.apply s).status.reason = s.status.reason := by
  cases op with
  | verdict | frame => exact absurd hop.1 hi
  | checksum | value | words | bytes => exact ⟨rfl, rfl⟩

theorem Op.apply_v (hop : op.belongsTo i s) (hi : i ∉ writesV) : (op.apply s).v = s.v := by
  cases op with
  | value => exact absurd hop hi
  | checksum | verdict | frame | words | bytes => rfl

theorem Op.apply_wcnt (hop : op.belongsTo i s) (hi : i ∉ writesWcnt) : (op.apply s).wcnt = s.wcnt := by
  cases op with
  | words => exact absurd hop.1 hi
  | checksum | verdict | frame | value | bytes => rfl

theorem Op.apply_wbuf_outside (hop : op.belongsTo i s) (k : Nat) (hk : storedWords i s ≤ k) :
    (op.apply s).wbuf.read? k = s.wbuf.read? k := by
  cases op with
  | words ws =>
    have hlen : 0 + ws.length ≤ k := (Nat.zero_add _).trans_le (hop.2.trans_le hk)
    exact Memory.read?_writeAll_outside ws s.wbuf 0 k (.inr hlen)
  | checksum | verdict | frame | value | bytes => rfl

end Frame

/-- Settles O45: an error keeps every field but STATUS, and an operation writes the fields of its own kind. -/
theorem commandsChangeOnlyWhatTheirRuleNames : Obligations.CommandsChangeOnlyWhatTheirRuleNames := by
  intro i s t h
  obtain ⟨e, -, rfl⟩ | ⟨-, op, hop, rfl⟩ := exec_cases h
  · simp
  · refine ⟨op.apply_a s, op.apply_n s, op.apply_order s, op.apply_cmd s, op.apply_params s, op.apply_events s,
      op.apply_observed s, op.apply_draws s, op.apply_busy s, op.apply_buflen hop, op.apply_buf_outside hop,
      op.apply_crc hop, op.apply_keeps_verdict hop, ?_, ?_, op.apply_wbuf_outside hop⟩
    · intro h1 h2 h3 h4 h5
      exact op.apply_v hop (by simp [writesV, h1, h2, h3, h4, h5])
    · intro h1 h2 h3 h4 h5 h6
      exact op.apply_wcnt hop (by simp [writesWcnt, h1, h2, h3, h4, h5, h6])

/-- A CRCVAL without error leaves VALID = 1 exactly with REASON = None (10_state.md R28). -/
theorem Op.apply_valid_iff {s : State} {op : Op} (hop : op.belongsTo .crcval s) :
    (op.apply s).status.valid = true ↔ (op.apply s).status.reason = .none := by
  obtain ⟨r, rfl, -⟩ | ⟨c, r, rfl⟩ := Op.eq_answer hop
  · exact decide_eq_true_iff
  · exact decide_eq_true_iff

/-- Settles O46: a reserved code and an error keep both, and so does every operation but an answer of CRCVAL. -/
theorem verdictIsWrittenByCrcvalAlone : Obligations.VerdictIsWrittenByCrcvalAlone := by
  intro d s t h
  cases d with
  | illegalCommand => cases h; simp
  | command i =>
    obtain ⟨e, he, rfl⟩ | ⟨-, op, hop, rfl⟩ := exec_cases h
    · exact ⟨fun _ => ⟨rfl, rfl⟩, fun _ h0 => absurd h0 he⟩
    · refine ⟨fun hd => op.apply_keeps_verdict hop ?_, ?_⟩
      · rintro rfl
        simp at hd
      · rintro hd -
        obtain rfl : i = .crcval := by simpa using hd
        have hv := op.apply_valid_iff hop
        exact ⟨hv.mp, fun hf hr => by simp [hv.mpr hr] at hf⟩

/-- An idle host turn is its access (20_memory.md R70). -/
theorem step_host_idle {s : State} {p : Primitive} {es : List Event} (hb : s.status.busy = false)
    (he : s.events = .host p :: es) : step s = access p s.tick :=
  (step_host s p es he).trans (perform_idle p s.tick hb)

/-- A host read of a BUF cell that holds a value records it (20_memory.md R73, R78). -/
theorem step_readBuf_held {s : State} {i : Nat} {b : Byte} {es : List Event} (hb : s.status.busy = false)
    (hi : i < s.params.bufCap) (hr : s.buf.read? i = some b) (he : s.events = .host (.readBuf i) :: es) :
    step s = .next (s.tick.observe (.byte i b)) := by
  rw [step_host_idle hb he]
  simp [access, hostReadBuf, hi, State.bufRead, hr]

/-- A host read of a WBUF cell that holds a value records it (20_memory.md R73, R78). -/
theorem step_readWord_held {s : State} {k : Nat} {w : Word} {es : List Event} (hb : s.status.busy = false)
    (hk : k < s.params.wcap) (hr : s.wbuf.read? k = some w) (he : s.events = .host (.readWord k) :: es) :
    step s = .next (s.tick.observe (.word k w)) := by
  rw [step_host_idle hb he]
  simp [access, hostReadWord, hk, State.wbufRead, hr]

/-- Every BUF cell below the count a command stores holds a value afterwards. -/
theorem Op.apply_holds_bytes {i : Instr} {s : State} {op : Op} (hop : op.belongsTo i s) {j : Nat}
    (hj : j < storedBytes i s) : ∃ b, (op.apply s).buf.read? j = some b := by
  obtain rfl := eq_r2str_of_storedBytes hj
  obtain ⟨bs, rfl, hlen⟩ := Op.eq_bytes hop
  exact ⟨_, Nat.zero_add j ▸ Memory.read?_writeAll_inside bs s.buf 0 j (hlen ▸ hj)⟩

/-- Every WBUF cell below the count a command stores holds a value afterwards. -/
theorem Op.apply_holds_words {i : Instr} {s : State} {op : Op} (hop : op.belongsTo i s) {k : Nat}
    (hk : k < storedWords i s) : ∃ w, (op.apply s).wbuf.read? k = some w := by
  obtain ⟨ws, rfl, hlen⟩ := Op.eq_words hop (mem_writesWcnt_of_storedWords hk)
  exact ⟨_, Nat.zero_add k ▸ Memory.read?_writeAll_inside ws s.wbuf 0 k (hlen ▸ hk)⟩

/-- Settles O54: the stored range lies inside the capacity and every cell of it holds a value. -/
theorem hostReadsWhatACommandStored : Obligations.HostReadsWhatACommandStored := by
  intro i s t j es hs h herr
  obtain ⟨e, he, rfl⟩ | ⟨h0, op, hop, rfl⟩ := exec_cases h
  · exact absurd herr he
  · obtain ⟨hbytes, hwords⟩ := stored_within_capacity hs.1 h0
    constructor
    · intro hj
      obtain ⟨b, hb⟩ := op.apply_holds_bytes hop hj
      have hcap : j < (op.apply s).params.bufCap := by simpa using hj.trans_le hbytes
      exact ⟨b, hb, step_readBuf_held (op.apply_busy s) hcap hb rfl⟩
    · intro hj
      obtain ⟨w, hw⟩ := op.apply_holds_words hop hj
      have hcap : j < (op.apply s).params.wcap := by simpa using hj.trans_le hwords
      exact ⟨w, hw, step_readWord_held (op.apply_busy s) hcap hw rfl⟩

end Sys2Proof.Proofs

/-! SUPPORT. The register accesses of the host by number and width (10_state.md R21), the STATUS and CFG bytes (R25,
R30), and single steps of the block and the host. -/

namespace Sys2Proof.Proofs

open Sys2Proof.Machine Sys2Proof.Claims

/-- The table of R21 lists each register with its number and width. -/
theorem mem_registerTable {r : Reg} {number width : Nat} (h : (r, number, width) ∈ registerTable) :
    number = r.number ∧ width = r.width := by
  cases r <;> simpa [registerTable, Reg.number, Reg.width] using h

theorem hostReadReg_number (r : Reg) (s : State) :
    hostReadReg r.number r.width s = .next (s.observe (.reg r (s.readReg r))) := by
  simp [hostReadReg]

theorem hostWriteReg_number (r : Reg) {value : Nat} (s : State) (h : value < 2 ^ r.width) :
    hostWriteReg r.number r.width value s = s.writeReg r value := by
  simp [hostWriteReg, h]

/-- CFG reads as its bit 0 alone (10_state.md R30). -/
theorem cfgByte_setWidth (s : State) :
    s.cfgByte.setWidth 64 = if s.order = .highWordFirst then 1#64 else 0#64 := by
  unfold State.cfgByte
  cases s.order <;> rfl

/-- The word order CFG bit 0 selects (10_state.md R30). -/
theorem ofBit_testBit_zero (x : Nat) :
    WordOrder.ofBit (x.testBit 0) = if x % 2 = 1 then .highWordFirst else .lowWordFirst := by
  rw [Nat.testBit_zero]
  split <;> simp_all [WordOrder.ofBit]

/-- BUSY is bit 0 of the STATUS byte (10_state.md R25). -/
theorem toByte_busy (t : Status) : t.toByte.getLsbD 0 = t.busy := by
  rw [Status.toByte, BitVec.getLsbD_append, if_pos (by decide)]
  exact BitVec.getLsbD_ofBool _ 0

/-- VALID is bit 1 (R25). -/
theorem toByte_valid (t : Status) : t.toByte.getLsbD 1 = t.valid := by
  rw [Status.toByte, BitVec.getLsbD_append, if_neg (by decide), BitVec.getLsbD_append, if_pos (by decide)]
  exact BitVec.getLsbD_ofBool _ 0

/-- REASON is bits 4:2 (R25). -/
theorem toByte_reason (t : Status) : t.toByte.extractLsb' 2 3 = t.reason.code := by
  unfold Status.toByte
  rw [BitVec.extractLsb'_append_eq_of_le (by decide), BitVec.extractLsb'_append_eq_of_le (by decide)]
  exact BitVec.extractLsb'_append_eq_right

/-- ERR is bits 7:5 (R25). -/
theorem toByte_err (t : Status) : t.toByte.extractLsb' 5 3 = t.err.code := by
  unfold Status.toByte
  rw [BitVec.extractLsb'_append_eq_of_le (by decide), BitVec.extractLsb'_append_eq_of_le (by decide)]
  exact BitVec.extractLsb'_append_eq_left

/-- An appended bit vector as a number: the low part below the high part. -/
theorem toNat_append_eq_add {m n : Nat} (x : BitVec m) (y : BitVec n) :
    (x ++ y).toNat = x.toNat * 2 ^ n + y.toNat := by
  rw [BitVec.toNat_append, ← Nat.shiftLeft_add_eq_or_of_lt y.isLt, Nat.shiftLeft_eq]

/-- The STATUS byte as a number (R25). -/
theorem toByte_toNat (t : Status) :
    t.toByte.toNat = t.err.code.toNat * 32 + t.reason.code.toNat * 4 + t.valid.toNat * 2 + t.busy.toNat := by
  unfold Status.toByte
  rw [toNat_append_eq_add, toNat_append_eq_add, toNat_append_eq_add, BitVec.toNat_ofBool, BitVec.toNat_ofBool]
  omega

/-- CFG[7:1] reads 0 (R30). -/
theorem cfgByte_high (s : State) : s.cfgByte.extractLsb' 1 7 = 0#7 := BitVec.extractLsb'_append_eq_left

/-- CFG bit 0 is set exactly for HighWordFirst (R30). -/
theorem cfgByte_bit (s : State) : s.cfgByte.getLsbD 0 = true ↔ s.order = .highWordFirst := by
  rw [State.cfgByte, BitVec.getLsbD_append, if_pos (by decide)]
  cases s.order <;> simp [WordOrder.bit]

/-- Settles O14: the fields of both bytes one by one, the codes by their tables. -/
theorem statusAndCfgBytesHaveTheirFields : Obligations.StatusAndCfgBytesHaveTheirFields := by
  intro s
  refine ⟨toByte_busy _, toByte_valid _, toByte_reason _, toByte_err _, ?_, ?_, toByte_toNat _, cfgByte_high s,
    cfgByte_bit s⟩
  · cases s.status.reason <;> rfl
  · cases s.status.err <;> rfl

theorem hostReset_registersAtReset (s : State) : registersAtReset s.hostReset :=
  have hstatus : Status.reset.toByte.setWidth 64 = 0x00#64 := by decide
  ⟨rfl, hstatus, by simp [State.readReg, cfgByte_setWidth], rfl, rfl, rfl, rfl, rfl, rfl, rfl⟩

/-- Settles O3: HostReset gives the stated values from every state, the reset state itself among them. -/
theorem resetStateHoldsTheStatedValues : Obligations.ResetStateHoldsTheStatedValues := by
  refine ⟨hostReset_registersAtReset State.reset, fun s es h => ⟨s.tick.hostReset, ?_, hostReset_registersAtReset _⟩⟩
  rw [step_host _ _ _ h, perform_allowed _ _ rfl, access]

/-- With the block's turn next, a running block performs its turn (70_reset_and_hazards.md R221). -/
theorem step_of_blockIsNext {s : State} (hb : s.status.busy = true) (hn : blockIsNext s) :
    step s = runDecoded (decode s.cmd) s.tick := by
  have hturn : blockTurn s.tick = runDecoded (decode s.cmd) s.tick := if_pos hb
  obtain he | ⟨es, he⟩ := hn
  · rw [step_last _ he hb, hturn]
  · rw [step_block _ _ he, hturn]

/-- Settles O7: the block's turn runs the decoded code, and `ticked` is the model's `tick`. -/
theorem stepRunsTheDecodedCommand : Obligations.StepRunsTheDecodedCommand := by
  intro s i hb hn hd
  rw [step_of_blockIsNext hb hn, hd]
  rfl

/-- An idle register write that fits its register is the write's effect (20_memory.md R70, R71). -/
theorem step_writeReg {s : State} {r : Reg} {value : Nat} {es : List Event} (hb : s.status.busy = false)
    (hv : value < 2 ^ r.width) (he : s.events = .host (.writeReg r.number r.width value) :: es) :
    step s = s.tick.writeReg r value := by
  rw [step_host_idle hb he, access, hostWriteReg_number _ _ hv]

/-- Settles O8: CMD is register 0, 8 bits wide. -/
theorem cmdWriteStartsTheCommand : Obligations.CmdWriteStartsTheCommand :=
  fun _ _ _ hb hc he => step_writeReg (r := .cmd) hb hc he

/-- Settles O13: a STATUS read is allowed while BUSY, any other read while idle. -/
theorem registerReadsReturnTheRegister : Obligations.RegisterReadsReturnTheRegister := by
  intro s r number width es hr hidle he
  obtain ⟨rfl, rfl⟩ := mem_registerTable hr
  have hp : perform (.readReg r.number r.width) s.tick = hostReadReg r.number r.width s.tick := by
    obtain hb | rfl := hidle
    · exact perform_idle _ _ hb
    · exact perform_allowed _ _ rfl
  rw [step_host _ _ _ he, hp, hostReadReg_number]
  cases r with
  | cfg => rw [State.readReg, cfgByte_setWidth]; rfl
  | cmd | status | a | n | buflen | wcnt | crc | v => rfl

/-- Settles O15: each register's write, with the capacity test of BUFLEN and WCNT passed. -/
theorem registerWritesStoreTheValue : Obligations.RegisterWritesStoreTheValue := by
  intro s r number width x es hr hb hcmd hx hbuf hwcnt he
  obtain ⟨rfl, rfl⟩ := mem_registerTable hr
  rw [step_writeReg hb hx he]
  cases r with
  | cmd => exact absurd rfl hcmd
  | cfg => rw [State.writeReg, ofBit_testBit_zero]; rfl
  | buflen => exact if_pos (hbuf rfl)
  | wcnt => exact if_pos (hwcnt rfl)
  | status | a | n | crc | v => rfl

/-- Settles O20: the one other primitive allowed while BUSY is a STATUS read, which only records. -/
theorem operandsHeldWhileBusy : Obligations.OperandsHeldWhileBusy := by
  intro s t p es hb he hp h
  rw [step_host _ _ _ he] at h
  obtain ⟨hallowed, hacc⟩ := perform_next h
  have htail : s.events.tail = es := by rw [he, List.tail_cons]
  cases p with
  | readReg r width =>
    obtain ⟨o, rfl⟩ := hostReadReg_next hacc
    rw [← htail]
    rfl
  | reset => exact absurd rfl hp
  | writeReg | readBuf | writeBuf | readWord | writeWord => cases hallowed hb

end Sys2Proof.Proofs

/-! SUPPORT. A command depends on the operands its rule names and on nothing else (10_state.md R30 to R38): two states
that agree on them give the same error and the same operation. -/

namespace Sys2Proof.Proofs

open Sys2Proof.Machine Sys2Proof.Claims

/-- The commands that read ORDER (10_state.md R30). -/
def readsOrder : List Instr := [.r2i32, .r2i64, .r2f32, .r2f64, .i322r, .i642r, .f322r, .f642r]

/-- The commands that read A (R31). -/
def readsA : List Instr := [.crccalc, .r2str, .ldwbe, .widen]

/-- The commands that read N (R32). -/
def readsN : List Instr := [.crccalc, .crcval, .r2str, .ldwbe]

/-- The commands that read BUF, bounded by BUFLEN (R33, R37). -/
def readsBuf : List Instr := [.crccalc, .crcval, .str2r, .ldwbe]

/-- The commands that read WBUF, bounded by WCNT (R34, R38). -/
def readsWbuf : List Instr := [.r2i32, .r2i64, .r2f32, .r2f64, .r2str, .widen]

/-- The commands that read V[31:0] alone (R36). -/
def readsV32 : List Instr := [.i322r, .f322r]

/-- The commands that read all of V (R36). -/
def readsV64 : List Instr := [.i642r, .f642r]

/-- `s'` gives command `i` the operands `s` gives it. What a use does not fill in is the same by definition. -/
structure SameOperands (i : Instr) (s s' : State) : Prop where
  params : s'.params = s.params := by rfl
  order : i ∈ readsOrder → s'.order = s.order := by intros; rfl
  a : i ∈ readsA → s'.a = s.a := by intros; rfl
  n : i ∈ readsN → s'.n = s.n := by intros; rfl
  buflen : i ∈ readsBuf → s'.buflen = s.buflen := by intros; rfl
  wcnt : i ∈ readsWbuf → s'.wcnt = s.wcnt := by intros; rfl
  v32 : i ∈ readsV32 → s'.value32 = s.value32 := by intros; rfl
  v64 : i ∈ readsV64 → s'.v = s.v := by intros; rfl
  bytes : i ∈ readsBuf → ∀ k j, j < s.buflen.toNat → s'.bufRead k j = s.bufRead k j := by intros; rfl
  words : i ∈ readsWbuf → ∀ k j, j < s.wcnt.toNat → s'.wbufRead k j = s.wbufRead k j := by intros; rfl

namespace SameOperands

variable {i : Instr} {s s' : State}

theorem errorOf_eq (h : SameOperands i s s') : errorOf i s' = errorOf i s := by
  cases i with
  | crccalc | i322r | i642r | f322r | f642r => rfl
  | r2i32 | r2i64 | r2f32 | r2f64 => simp only [errorOf, h.wcnt (by decide)]
  | crcval => simp only [errorOf, h.n (by decide), h.buflen (by decide)]
  | r2str => simp only [errorOf, h.params, h.a (by decide), h.n (by decide), h.wcnt (by decide)]
  | str2r => simp only [errorOf, h.params, h.buflen (by decide)]
  | ldwbe => simp only [errorOf, h.params, h.a (by decide), h.n (by decide), h.buflen (by decide)]
  | widen => simp only [errorOf, h.a (by decide), h.wcnt (by decide)]

theorem crccalc_eq (h : SameOperands .crccalc s s') : operation .crccalc s' = operation .crccalc s := by
  simp only [operation, State.start_eq, State.count_eq, State.bufBound_eq, h.a (by decide), h.n (by decide),
    h.buflen (by decide)]
  rw [crcRange_congr _ _ _ _ _ (h.bytes (by decide))]

theorem frameCrc_eq (h : SameOperands .crcval s s') : s'.frameCrc = s.frameCrc := by
  simp only [State.frameCrc, State.count_eq, State.bufBound_eq, h.n (by decide), h.buflen (by decide)]
  exact crcRange_congr _ _ _ _ _ fun k j hj => h.bytes (by decide) (k + 1) j hj

/-- The reads of CRCVAL lie inside the frame: the unit id, the N - 2 bytes, and the trailer. -/
theorem crcval_eq (h : SameOperands .crcval s s') (h0 : errorOf .crcval s = .none) :
    operation .crcval s' = operation .crcval s := by
  simp only [operation, h.n (by decide)]
  by_cases hn : s.n.toNat < 6
  · rw [if_pos hn, if_pos hn]
  · have hlen : s.n.toNat ≤ s.buflen.toNat := by
      simp only [errorOf, ite_eq_right_iff, reduceCtorEq, imp_false] at h0
      omega
    have hread (k j : Nat) (hj : j < s.n.toNat) : s'.bufRead k j = s.bufRead k j :=
      h.bytes (by decide) k j (hj.trans_le hlen)
    have hunit : s'.unitIdOutside = s.unitIdOutside := by
      rw [State.unitIdOutside, State.unitIdOutside, hread 0 0 (by omega)]
    have htrailer : s'.trailerMatches = s.trailerMatches := by
      simp only [State.trailerMatches, State.count_eq, h.n (by decide), h.frameCrc_eq]
      rw [hread _ (s.n.toNat - 2) (by omega), hread _ (s.n.toNat - 1) (by omega)]
    rw [hunit, htrailer, h.frameCrc_eq]

theorem stringBytes_eq (h : SameOperands .r2str s s') (h0 : errorOf .r2str s = .none) :
    s'.stringBytes = s.stringBytes := by
  simp only [errorOf, ite_eq_right_iff, reduceCtorEq, imp_false, not_or, not_lt] at h0
  simp only [State.stringBytes, State.count_eq, h.n (by decide)]
  refine List.map_congr_left fun j hj => ?_
  have hj : j < s.n.toNat := List.mem_range.mp hj
  simp only [State.stringByte, State.start_eq, h.a (by decide)]
  rw [h.words (by decide) j _ (by omega)]

theorem stringWords_eq (h : SameOperands .str2r s s') : s'.stringWords = s.stringWords := by
  simp only [State.stringWords, State.bufBound_eq, ceil2, h.buflen (by decide)]
  refine List.map_congr_left fun k hk => ?_
  have hk : k < (s.buflen.toNat + 1) / 2 := List.mem_range.mp hk
  simp only [State.stringWord, State.bufBound_eq, h.buflen (by decide)]
  rw [h.bytes (by decide) (2 * k) _ (by omega)]
  split
  · rw [h.bytes (by decide) (2 * k + 1) _ ‹_›]
  · rfl

theorem wireWords_eq (h : SameOperands .ldwbe s s') (h0 : errorOf .ldwbe s = .none) :
    s'.wireWords = s.wireWords := by
  simp only [errorOf, ite_eq_right_iff, reduceCtorEq, imp_false, not_or, not_lt] at h0
  simp only [State.wireWords, State.count_eq, h.n (by decide)]
  refine List.map_congr_left fun k hk => ?_
  have hk : k < s.n.toNat := List.mem_range.mp hk
  simp only [State.wireWord, State.start_eq, h.a (by decide)]
  rw [h.bytes (by decide) (2 * k) _ (by omega), h.bytes (by decide) (2 * k + 1) _ (by omega)]

theorem operation_eq (h : SameOperands i s s') (h0 : errorOf i s = .none) : operation i s' = operation i s := by
  cases i with
  | crccalc => exact h.crccalc_eq
  | crcval => exact h.crcval_eq h0
  | r2str => simp only [operation, h.stringBytes_eq h0]
  | str2r => simp only [operation, h.stringWords_eq]
  | ldwbe => simp only [operation, h.wireWords_eq h0]
  | i322r | f322r => simp only [operation, h.order (by decide), h.v32 (by decide)]
  | i642r | f642r => simp only [operation, h.order (by decide), h.v64 (by decide)]
  | r2i32 | r2f32 =>
    simp only [errorOf, ite_eq_left_iff, reduceCtorEq, imp_false, not_not] at h0
    simp only [operation, h.order (by decide)]
    rw [h.words (by decide) 0 0 (by omega), h.words (by decide) 1 1 (by omega)]
  | r2i64 | r2f64 =>
    simp only [errorOf, ite_eq_left_iff, reduceCtorEq, imp_false, not_not] at h0
    simp only [operation, h.order (by decide)]
    rw [h.words (by decide) 0 0 (by omega), h.words (by decide) 1 1 (by omega), h.words (by decide) 2 2 (by omega),
      h.words (by decide) 3 3 (by omega)]
  | widen =>
    simp only [errorOf, ite_eq_right_iff, reduceCtorEq, imp_false, not_le] at h0
    simp only [operation, State.start_eq, h.a (by decide)]
    rw [h.words (by decide) 0 _ h0]

/-- The transfer rule: on the same operands a command ends in `t'` if `t'` is where its error leaves `s'`, or where
its operation does. -/
theorem exec_next {t t' : State} (h : SameOperands i s s') (hx : exec i s = .next t)
    (herr : ∀ e, errorOf i s = e → e ≠ .none → t = s.complete e → s'.complete e = t')
    (hop : ∀ op : Op, op.belongsTo i s → t = op.apply s → op.apply s' = t') : exec i s' = .next t' := by
  rw [exec_eq_ending, Host.Outcome.next.injEq] at hx ⊢
  by_cases h0 : errorOf i s = .none
  · rw [ending_of_none h0] at hx
    rw [ending_of_none (h.errorOf_eq.trans h0), h.operation_eq h0]
    exact hop _ (operation_belongsTo i s) hx.symm
  · rw [ending_of_error rfl h0] at hx
    rw [ending_of_error h.errorOf_eq h0]
    exact herr _ rfl h0 hx.symm

end SameOperands

/-- With every cell below the lengths written, the draw counter does not change what a command reads. -/
theorem SameOperands.of_draws (i : Instr) {s : State} (d : Nat) (hw : s.WrittenBelowLengths) :
    SameOperands i s { s with draws := d } where
  bytes _ k j hj := by
    obtain ⟨b, hb⟩ := Option.isSome_iff_exists.mp (hw.1 j hj)
    simp [State.bufRead, hb]
  words _ k j hj := by
    obtain ⟨w, hb⟩ := Option.isSome_iff_exists.mp (hw.2 j hj)
    simp [State.wbufRead, hb]

/-- Settles O48: the draw counter reaches a command through reads of never-written cells alone. -/
theorem writtenBuffersHideNoFreeValue : Obligations.WrittenBuffersHideNoFreeValue := by
  intro i s t d hw h
  refine (SameOperands.of_draws i d hw).exec_next h ?_ ?_
  · rintro e - - rfl; rfl
  · rintro op - rfl; cases op <;> rfl

/-- Settles O49: none of the listed commands reads the register changed, and every operation keeps it. -/
theorem unreadRegistersHaveNoInfluence : Obligations.UnreadRegistersHaveNoInfluence := by
  intro i s t h
  refine ⟨fun o hi => ?_, fun a hi => ?_, fun n hi => ?_⟩
  · have hs : SameOperands i s { s with order := o } := { order := elim_of_disjoint (by decide) hi }
    refine hs.exec_next h ?_ ?_
    · rintro e - - rfl; rfl
    · rintro op - rfl; cases op <;> rfl
  · have hs : SameOperands i s { s with a := a } := { a := elim_of_disjoint (by decide) hi }
    refine hs.exec_next h ?_ ?_
    · rintro e - - rfl; rfl
    · rintro op - rfl; cases op <;> rfl
  · have hs : SameOperands i s { s with n := n } := { n := elim_of_disjoint (by decide) hi }
    refine hs.exec_next h ?_ ?_
    · rintro e - - rfl; rfl
    · rintro op hop rfl
      cases op with
      | bytes bs => cases hop.1; simp at hi
      | checksum | verdict | frame | value | words => rfl

theorem exec_not_busy {i : Instr} {s t : State} (h : exec i s = .next t) : t.status.busy = false := by
  obtain ⟨e, -, rfl⟩ | ⟨-, op, -, rfl⟩ := exec_cases h
  · rfl
  · exact op.apply_busy s

/-- Settles O50: no command has STATUS among its operands, and only an answer of CRCVAL sets VALID and REASON. -/
theorem statusIsNoOperand : Obligations.StatusIsNoOperand := by
  intro i s t x h
  have hs : SameOperands i s { s with status := x } := {}
  by_cases hv : i = .crcval ∧ t.status.err = .none
  · obtain ⟨rfl, herr⟩ := hv
    refine ⟨t.status, hs.exec_next h ?_ ?_, exec_not_busy h, rfl, fun _ _ => ⟨rfl, rfl⟩, by simp [herr]⟩
    · rintro e - he rfl
      exact absurd herr he
    · rintro op hop rfl
      obtain ⟨r, rfl, -⟩ | ⟨c, r, rfl⟩ := Op.eq_answer hop <;> rfl
  · refine ⟨{ x with busy := false, err := t.status.err }, hs.exec_next h ?_ ?_, rfl, rfl,
      fun hi h0 => absurd ⟨hi, h0⟩ hv, fun _ => ⟨rfl, rfl⟩⟩
    · rintro e - - rfl; rfl
    · rintro op hop rfl
      cases op with
      | verdict | frame => exact absurd ⟨hop.1, rfl⟩ hv
      | checksum | value | words | bytes => rfl

/-- Settles O51: BUF below BUFLEN, or WBUF below WCNT, is all these commands read of it, and none of them stores there. -/
theorem cellsOutsideTheLengthsAreNotSeen : Obligations.CellsOutsideTheLengthsAreNotSeen := by
  intro i s t h
  refine ⟨fun m hi hm => ?_, fun m hi hm => ?_⟩
  · have hs : SameOperands i s { s with buf := m } := { bytes := fun _ k j hj => by simp only [State.bufRead, hm j hj] }
    refine hs.exec_next h ?_ ?_
    · rintro e - - rfl; rfl
    · rintro op hop rfl
      cases op with
      | bytes bs => cases hop.1; simp at hi
      | checksum | verdict | frame | value | words => rfl
  · have hs : SameOperands i s { s with wbuf := m } := { words := fun _ k j hj => by simp only [State.wbufRead, hm j hj] }
    refine hs.exec_next h ?_ ?_
    · rintro e - - rfl; rfl
    · rintro op hop rfl
      cases op with
      | words ws => exact elim_of_disjoint (by decide) hi hop.1
      | checksum | verdict | frame | value | bytes => rfl

/-- V changed before is overwritten by the commands that write it (10_state.md R36, R49). -/
theorem exec_v_written {i : Instr} {s t : State} (v : BitVec 64) (hs : SameOperands i s { s with v := v })
    (h : exec i s = .next t) (hi : i ∈ writesV) (herr : t.status.err = .none) :
    exec i { s with v := v } = .next t := by
  refine hs.exec_next h ?_ ?_
  · rintro e - he rfl
    exact absurd herr he
  · rintro op hop rfl
    obtain ⟨x, rfl⟩ := Op.eq_value hop hi
    rfl

/-- V changed before is kept by the commands that do not write it. -/
theorem exec_v_kept {i : Instr} {s t : State} (v : BitVec 64) (hs : SameOperands i s { s with v := v })
    (h : exec i s = .next t) (hn : ¬ (i ∈ writesV ∧ t.status.err = .none)) :
    exec i { s with v := v } = .next { t with v := v } := by
  refine hs.exec_next h ?_ ?_
  · rintro e - - rfl; rfl
  · rintro op hop rfl
    cases op with
    | value => exact absurd ⟨hop, rfl⟩ hn
    | checksum | verdict | frame | words | bytes => rfl

theorem SameOperands.of_crc (i : Instr) (s : State) (c : BitVec 16) : SameOperands i s { s with crc := c } := {}

/-- CRC changed before is overwritten where the command computed a checksum (10_state.md R35, R49). -/
theorem exec_crc_written {i : Instr} {s t : State} (c : BitVec 16) (h : exec i s = .next t) (hc : crcWritten i t) :
    exec i { s with crc := c } = .next t := by
  refine (SameOperands.of_crc i s c).exec_next h ?_ ?_
  · rintro e he hne rfl
    obtain rfl | ⟨-, herr, -⟩ := hc
    · exact absurd he.symm hne
    · exact absurd herr hne
  · rintro op hop rfl
    obtain rfl | ⟨rfl, -, hr⟩ := hc
    · obtain ⟨c', rfl⟩ := Op.eq_checksum hop
      rfl
    · obtain ⟨r, rfl, hr'⟩ | ⟨c', r, rfl⟩ := Op.eq_answer hop
      · obtain rfl | rfl := hr' <;> simp [Op.apply] at hr
      · rfl

/-- CRC changed before is kept where the command computed no checksum. -/
theorem exec_crc_kept {i : Instr} {s t : State} (c : BitVec 16) (h : exec i s = .next t) (hc : ¬ crcWritten i t) :
    exec i { s with crc := c } = .next { t with crc := c } := by
  refine (SameOperands.of_crc i s c).exec_next h ?_ ?_
  · rintro e - - rfl; rfl
  · rintro op hop rfl
    cases op with
    | checksum => exact absurd (.inl hop) hc
    | frame c r => exact absurd (.inr ⟨hop.1, rfl, hop.2⟩) hc
    | verdict | value | words | bytes => rfl

/-- BUFLEN is an operand of the commands that read BUF alone (10_state.md R33). -/
theorem SameOperands.of_buflen {i : Instr} {s : State} (l : BitVec 16) (hi : i ∉ readsBuf) :
    SameOperands i s { s with buflen := l } where
  buflen hm := absurd hm hi

theorem exec_buflen_written {s t : State} (l : BitVec 16) (h : exec .r2str s = .next t)
    (herr : t.status.err = .none) : exec .r2str { s with buflen := l } = .next t := by
  refine (SameOperands.of_buflen l (by decide)).exec_next h ?_ ?_
  · rintro e - he rfl
    exact absurd herr he
  · rintro op hop rfl
    obtain ⟨bs, rfl, -⟩ := Op.eq_bytes hop
    rfl

theorem exec_buflen_kept {i : Instr} {s t : State} (l : BitVec 16) (hi : i ∉ readsBuf) (h : exec i s = .next t)
    (hn : ¬ (i = .r2str ∧ t.status.err = .none)) :
    exec i { s with buflen := l } = .next { t with buflen := l } := by
  refine (SameOperands.of_buflen l hi).exec_next h ?_ ?_
  · rintro e - - rfl; rfl
  · rintro op hop rfl
    cases op with
    | bytes => exact absurd ⟨hop.1, rfl⟩ hn
    | checksum | verdict | frame | value | words => rfl

/-- WCNT is an operand of the commands that read WBUF alone (10_state.md R34). -/
theorem SameOperands.of_wcnt {i : Instr} {s : State} (c : BitVec 16) (hi : i ∉ readsWbuf) :
    SameOperands i s { s with wcnt := c } where
  wcnt hm := absurd hm hi

theorem exec_wcnt_written {i : Instr} {s t : State} (c : BitVec 16) (h : exec i s = .next t) (hi : i ∈ writesWcnt)
    (herr : t.status.err = .none) : exec i { s with wcnt := c } = .next t := by
  refine (SameOperands.of_wcnt c (elim_of_disjoint (by decide) hi)).exec_next h ?_ ?_
  · rintro e - he rfl
    exact absurd herr he
  · rintro op hop rfl
    obtain ⟨ws, rfl, -⟩ := Op.eq_words hop hi
    rfl

theorem exec_wcnt_kept {i : Instr} {s t : State} (c : BitVec 16) (hi : i ∉ readsWbuf) (h : exec i s = .next t)
    (hn : ¬ (i ∈ writesWcnt ∧ t.status.err = .none)) :
    exec i { s with wcnt := c } = .next { t with wcnt := c } := by
  refine (SameOperands.of_wcnt c hi).exec_next h ?_ ?_
  · rintro e - - rfl; rfl
  · rintro op hop rfl
    cases op with
    | words => exact absurd ⟨hop.1, rfl⟩ hn
    | checksum | verdict | frame | value | bytes => rfl

/-- Settles O55: none of the listed commands reads the register changed. -/
theorem unreadResultsAndLengthsHaveNoInfluence : Obligations.UnreadResultsAndLengthsHaveNoInfluence := by
  intro i s t h
  refine ⟨fun v hi => ?_, fun v hi hv => ?_, fun c => ⟨exec_crc_written c h, exec_crc_kept c h⟩, fun l hi => ?_,
    fun c hi => ?_⟩
  · have hs : SameOperands i s { s with v := v } :=
      { v32 := fun hm => absurd ((by decide : readsV32 ⊆ _) hm) hi
        v64 := fun hm => absurd ((by decide : readsV64 ⊆ _) hm) hi }
    exact ⟨fun ⟨hw, herr⟩ => exec_v_written v hs h hw herr, exec_v_kept v hs h⟩
  · have hs : SameOperands i s { s with v := v } := { v32 := fun _ => hv, v64 := elim_of_disjoint (by decide) hi }
    exact exec_v_kept v hs h fun ⟨hw, _⟩ => elim_of_disjoint (by decide) hi hw
  · refine ⟨?_, exec_buflen_kept l (elim_of_disjoint (by decide) hi) h⟩
    rintro ⟨rfl, herr⟩
    exact exec_buflen_written l h herr
  · exact ⟨fun ⟨hw, herr⟩ => exec_wcnt_written c h hw herr, exec_wcnt_kept c (elim_of_disjoint (by decide) hi) h⟩

end Sys2Proof.Proofs

/-! SUPPORT. The host's contract (20_memory.md R70 to R73, 70_reset_and_hazards.md R210): where a step stops, that a host
which keeps the contract never stops it, and what the host reads of the cells it wrote. -/

namespace Sys2Proof.Proofs

open Sys2Proof.Machine Sys2Proof.Claims

/-- Settles O53: a cell that holds a value is read as that value, whatever the lengths. -/
theorem writtenCellsReadTheirValue : Obligations.WrittenCellsReadTheirValue :=
  fun _ _ _ hb => ⟨fun _ hi hr he => step_readBuf_held hb hi hr he, fun _ hk hr he => step_readWord_held hb hk hr he⟩

theorem step_writeBuf {s : State} {i : Nat} {b : Byte} {es : List Event} (hb : s.status.busy = false)
    (hi : i < s.params.bufCap) (he : s.events = .host (.writeBuf i b) :: es) :
    step s = .next { s with buf := s.buf.write i b, events := es, draws := s.draws + 1 } := by
  rw [step_host_idle hb he]
  simp [access, hostWriteBuf, hi, State.tick, he]

theorem step_writeWord {s : State} {k : Nat} {w : Word} {es : List Event} (hb : s.status.busy = false)
    (hk : k < s.params.wcap) (he : s.events = .host (.writeWord k w) :: es) :
    step s = .next { s with wbuf := s.wbuf.write k w, events := es, draws := s.draws + 1 } := by
  rw [step_host_idle hb he]
  simp [access, hostWriteWord, hk, State.tick, he]

/-- The cell written holds the byte when the read comes (20_memory.md R73, R78). -/
theorem runSteps_writeBuf_readBuf {s : State} {i : Nat} {b : Byte} {es : List Event} (hb : s.status.busy = false)
    (hi : i < s.params.bufCap) (he : s.events = .host (.writeBuf i b) :: .host (.readBuf i) :: es) :
    runSteps 2 s = .next { s with buf := s.buf.write i b, observed := .byte i b :: s.observed, events := es,
                                  draws := s.draws + 2 } := by
  rw [runSteps_of_step (step_writeBuf hb hi he)]
  refine runSteps_of_step ?_ 0
  exact step_readBuf_held hb hi (Memory.read?_write_same s.buf i b) rfl

/-- The cell written holds the word when the read comes (20_memory.md R73, R78). -/
theorem runSteps_writeWord_readWord {s : State} {k : Nat} {w : Word} {es : List Event} (hb : s.status.busy = false)
    (hk : k < s.params.wcap) (he : s.events = .host (.writeWord k w) :: .host (.readWord k) :: es) :
    runSteps 2 s = .next { s with wbuf := s.wbuf.write k w, observed := .word k w :: s.observed, events := es,
                                  draws := s.draws + 2 } := by
  rw [runSteps_of_step (step_writeWord hb hk he)]
  refine runSteps_of_step ?_ 0
  exact step_readWord_held hb hk (Memory.read?_write_same s.wbuf k w) rfl

/-- Settles O16: the write changes one BUF cell and the read records it. -/
theorem bufWriteThenReadReturnsTheByte : Obligations.BufWriteThenReadReturnsTheByte :=
  fun s _ b _ hb hi he =>
    ⟨_, runSteps_writeBuf_readBuf hb hi he, fun _ hj => Memory.read?_write_other s.buf b hj, rfl⟩

/-- Settles O17: the write changes one WBUF cell and the read records it. -/
theorem wordWriteThenReadReturnsTheWord : Obligations.WordWriteThenReadReturnsTheWord :=
  fun s _ w _ hb hk he =>
    ⟨_, runSteps_writeWord_readWord hb hk he, fun _ hj => Memory.read?_write_other s.wbuf w hj, rfl⟩

/-- A write to a register is refused for its value only above a capacity (20_memory.md R72). -/
theorem writeReg_next_iff (s : State) (r : Reg) (value : Nat) :
    (∃ t, s.writeReg r value = .next t) ↔ valueWithinCapacity s.params r value = true := by
  cases r with
  | buflen | wcnt =>
    simp only [State.writeReg, valueWithinCapacity, decide_eq_true_eq]
    split <;> simp [*]
  | cmd | status | cfg | a | n | crc | v => simp [State.writeReg, valueWithinCapacity]

theorem hostReadReg_next_iff (s : State) (r width : Nat) :
    (∃ t, hostReadReg r width s = .next t) ↔ (Primitive.readReg r width).wf s.params = true := by
  simp only [hostReadReg, Primitive.wf]
  cases Reg.ofNumber r with
  | none => simp
  | some reg => by_cases hw : width = reg.width <;> simp [hw]

theorem hostWriteReg_next_iff (s : State) (r width value : Nat) :
    (∃ t, hostWriteReg r width value s = .next t) ↔ (Primitive.writeReg r width value).wf s.params = true := by
  simp only [hostWriteReg, Primitive.wf]
  cases Reg.ofNumber r with
  | none => simp
  | some reg =>
    by_cases hw : width = reg.width
    · by_cases hv : value < 2 ^ reg.width <;> simp [hw, hv, writeReg_next_iff]
    · simp [hw]

/-- An access goes on exactly if its primitive is well formed (20_memory.md R71 to R73). -/
theorem access_next_iff (s : State) (p : Primitive) : (∃ t, access p s = .next t) ↔ p.wf s.params = true := by
  cases p with
  | readReg r width => exact hostReadReg_next_iff s r width
  | writeReg r width value => exact hostWriteReg_next_iff s r width value
  | readBuf i | writeBuf i =>
    by_cases hi : i < s.params.bufCap <;> simp [access, hostReadBuf, hostWriteBuf, Primitive.wf, hi]
  | readWord k | writeWord k =>
    by_cases hk : k < s.params.wcap <;> simp [access, hostReadWord, hostWriteWord, Primitive.wf, hk]
  | reset => simp [access, Primitive.wf]

/-- A primitive goes on exactly if it is well formed and BUSY allows it (70_reset_and_hazards.md R210). -/
theorem perform_next_iff (s : State) (p : Primitive) :
    (∃ t, perform p s = .next t) ↔
      p.wf s.params = true ∧ (s.status.busy = true → p.allowedWhileBusy = true) := by
  rw [← access_next_iff]
  constructor
  · rintro ⟨t, h⟩
    obtain ⟨hallowed, hacc⟩ := perform_next h
    exact ⟨⟨t, hacc⟩, hallowed⟩
  · rintro ⟨⟨t, hacc⟩, hallowed⟩
    refine ⟨t, Eq.trans ?_ hacc⟩
    cases hb : s.status.busy with
    | false => exact perform_idle p s hb
    | true => exact perform_allowed p s (hallowed hb)

/-- Settles O21: the block's turn always goes on, and the host's exactly if its primitive is inside the contract. -/
theorem stopsExactlyOutsideTheContract : Obligations.StopsExactlyOutsideTheContract := by
  intro s
  cases he : s.events with
  | nil =>
    refine iff_of_true ?_ nofun
    cases hb : s.status.busy with
    | false => exact ⟨s, step_waits s he hb⟩
    | true => rw [step_last s he hb]; exact blockTurn_next s.tick
  | cons e es =>
    cases e with
    | block =>
      refine iff_of_true ?_ nofun
      rw [step_block s es he]
      exact blockTurn_next s.tick
    | host p =>
      rw [step_host s p es he, perform_next_iff]
      refine ⟨fun h q es' hq => ?_, fun h => h p es rfl⟩
      cases hq
      exact h

theorem HostEffect.params_eq {s t : State} (h : HostEffect s t) : t.params = s.params := by cases h <;> rfl

theorem HostEffect.events_eq {s t : State} (h : HostEffect s t) : t.events = s.events := by cases h <;> rfl

theorem number_of_ofNumber {r : Nat} {reg : Reg} (h : Reg.ofNumber r = some reg) : r = reg.number := by
  unfold Reg.ofNumber at h
  split at h <;> cases h <;> rfl

/-- A register write that goes on is the write to the register of that number (10_state.md R21). -/
theorem hostWriteReg_number_of_next {r width value : Nat} {s t : State} (h : hostWriteReg r width value s = .next t) :
    ∃ reg : Reg, r = reg.number ∧ s.writeReg reg value = .next t := by
  unfold hostWriteReg at h
  split at h
  · cases h
  · next reg hreg =>
    split at h
    · split at h
      · exact ⟨reg, number_of_ofNumber hreg, h⟩
      · cases h
    · cases h

/-- CMD is the one register whose write sets BUSY (10_state.md R24, R26). -/
theorem writeReg_busy {r : Reg} {value : Nat} {s t : State} (h : s.writeReg r value = .next t) :
    t.status.busy = (s.status.busy || r.number == Reg.cmd.number) := by
  cases r with
  | buflen | wcnt =>
    simp only [State.writeReg] at h
    split at h <;> cases h
    exact (Bool.or_false _).symm
  | cmd => cases h; exact (Bool.or_true _).symm
  | status | cfg | a | n | crc | v => cases h; exact (Bool.or_false _).symm

/-- BUSY after an access is the BUSY by which `obeys` judges the next turn. -/
theorem access_busy {p : Primitive} {s t : State} (h : access p s = .next t) :
    t.status.busy = busyAfter s.status.busy p := by
  cases p with
  | readReg r width =>
    obtain ⟨o, rfl⟩ := hostReadReg_next h
    rfl
  | writeReg r width value =>
    obtain ⟨reg, rfl, hw⟩ := hostWriteReg_number_of_next h
    exact writeReg_busy hw
  | readBuf | writeBuf | readWord | writeWord =>
    simp only [access, hostReadBuf, hostWriteBuf, hostReadWord, hostWriteWord] at h
    split at h <;> cases h
    rfl
  | reset => cases h; rfl

/-- A command keeps the capacities and the turns to come, and leaves the block idle (10_state.md R26). -/
theorem exec_frame {i : Instr} {s t : State} (h : exec i s = .next t) :
    t.params = s.params ∧ t.events = s.events ∧ t.status.busy = false := by
  obtain ⟨e, -, rfl⟩ | ⟨-, op, -, rfl⟩ := exec_cases h
  · exact ⟨rfl, rfl, rfl⟩
  · exact ⟨op.apply_params s, op.apply_events s, op.apply_busy s⟩

/-- The block's turn keeps the capacities and the turns to come, and leaves the block idle. -/
theorem blockTurn_frame {s t : State} (h : blockTurn s = .next t) :
    t.params = s.params ∧ t.events = s.events ∧ t.status.busy = false := by
  unfold blockTurn at h
  split at h
  · cases hd : decode s.cmd with
    | command i => rw [hd] at h; exact exec_frame h
    | illegalCommand => rw [hd] at h; cases h; exact ⟨rfl, rfl, rfl⟩
  · next hb => cases h; exact ⟨rfl, rfl, Bool.eq_false_iff.mpr hb⟩

/-- The contract of a list that starts with the host's turn: the primitive is inside it, and the rest is judged by the
BUSY it leaves. -/
theorem hostObeys_host {s : State} {p : Primitive} {es : List Event} (he : s.events = .host p :: es) :
    s.HostObeys ↔ (p.wf s.params = true ∧ (s.status.busy = true → p.allowedWhileBusy = true)) ∧
      obeys s.params (busyAfter s.status.busy p) es = true := by
  rw [State.HostObeys, he, obeys]
  cases s.status.busy <;> simp

/-- After the block's turn the contract is judged with BUSY = 0 (10_state.md R26). -/
theorem hostObeys_blockTurn {s : State} (hrest : obeys s.params false s.events.tail = true) :
    ∃ t, blockTurn s.tick = .next t ∧ t.HostObeys := by
  obtain ⟨t, ht⟩ := blockTurn_next s.tick
  obtain ⟨hp, hes, hbusy⟩ := blockTurn_frame ht
  refine ⟨t, ht, ?_⟩
  rw [State.HostObeys, hp, hes, hbusy]
  exact hrest

/-- A turn of a host that keeps the contract goes on, and the turns after it keep the contract. -/
theorem hostObeys_step {s : State} (h : s.HostObeys) : ∃ t, step s = .next t ∧ t.HostObeys := by
  cases he : s.events with
  | nil =>
    cases hb : s.status.busy with
    | false => exact ⟨s, step_waits s he hb, h⟩
    | true =>
      obtain ⟨t, ht, hobeys⟩ := hostObeys_blockTurn (s := s) (by rw [he]; rfl)
      exact ⟨t, (step_last s he hb).trans ht, hobeys⟩
  | cons e es =>
    cases e with
    | block =>
      have hrest : obeys s.params false es = true := by simpa [State.HostObeys, he, obeys] using h
      obtain ⟨t, ht, hobeys⟩ := hostObeys_blockTurn (s := s) (by rwa [he])
      exact ⟨t, (step_block s es he).trans ht, hobeys⟩
    | host p =>
      obtain ⟨hin, hrest⟩ := (hostObeys_host he).mp h
      obtain ⟨t, ht⟩ := (perform_next_iff s.tick p).mpr hin
      have hacc := (perform_next ht).2
      have heff := access_effect hacc
      refine ⟨t, (step_host s p es he).trans ht, ?_⟩
      rw [State.HostObeys, heff.params_eq, heff.events_eq, access_busy hacc]
      simpa [he] using hrest

/-- Settles O22, by induction on the number of steps. -/
theorem obedientHostNeverStops : Obligations.ObedientHostNeverStops := by
  intro s n h
  induction n generalizing s with
  | zero => exact ⟨s, rfl⟩
  | succ n ih =>
    obtain ⟨t, hstep, ht⟩ := hostObeys_step h
    rw [runSteps_of_step hstep]
    exact ih t ht

end Sys2Proof.Proofs

/-! SUPPORT. A command run on its own result (20_memory.md R75): it finds the operands it found before, and its operation
writes what is there already. -/

namespace Sys2Proof.Proofs

open Sys2Proof.Machine Sys2Proof.Claims

/-- Writing a range a second time changes nothing. -/
theorem writeAll_twice {w : Nat} (xs : List (BitVec w)) (m : Memory w) (i : Nat) (h : m.wf = true) :
    (m.writeAll i xs).writeAll i xs = m.writeAll i xs := by
  have hwf := Memory.wf_writeAll xs m i h
  refine Memory.ext_of_wf _ _ (Memory.wf_writeAll xs _ i hwf) hwf fun j => ?_
  by_cases hj : j < i ∨ i + xs.length ≤ j
  · exact Memory.read?_writeAll_outside xs _ i j hj
  · obtain ⟨k, rfl⟩ := Nat.exists_eq_add_of_le (show i ≤ j by omega)
    rw [Memory.read?_writeAll_inside xs _ i k (by omega), Memory.read?_writeAll_inside xs m i k (by omega)]

/-- An operation on its own result, with whatever draw counter, changes nothing. -/
theorem Op.apply_twice (op : Op) {s : State} (d : Nat) (hs : s.Inv) :
    op.apply { op.apply s with draws := d } = { op.apply s with draws := d } := by
  obtain ⟨-, -, -, -, hbw, -, hww, -⟩ := hs
  cases op with
  | words ws => simp [Op.apply, State.complete, State.storeWords, writeAll_twice ws s.wbuf 0 hww]
  | bytes bs => simp [Op.apply, State.complete, State.storeBytes, writeAll_twice bs s.buf 0 hbw]
  | checksum | verdict | frame | value => rfl

theorem storedBytes_of_readsBuf {i : Instr} (s : State) (h : i ∈ readsBuf) : storedBytes i s = 0 := by
  cases i with
  | r2str => exact absurd h (by decide)
  | _ => rfl

theorem storedWords_of_readsWbuf {i : Instr} (s : State) (h : i ∈ readsWbuf) : storedWords i s = 0 := by
  cases i with
  | i322r | i642r | f322r | f642r | str2r | ldwbe => exact absurd h (by decide)
  | crccalc | crcval | r2i32 | r2i64 | r2f32 | r2f64 | r2str | widen => rfl

theorem bufRead_of_held {s s' : State} {j : Nat} (hw : (s.buf.read? j).isSome = true)
    (h : s'.buf.read? j = s.buf.read? j) (k : Nat) : s'.bufRead k j = s.bufRead k j := by
  obtain ⟨b, hb⟩ := Option.isSome_iff_exists.mp hw
  simp [State.bufRead, h, hb]

theorem wbufRead_of_held {s s' : State} {j : Nat} (hw : (s.wbuf.read? j).isSome = true)
    (h : s'.wbuf.read? j = s.wbuf.read? j) (k : Nat) : s'.wbufRead k j = s.wbufRead k j := by
  obtain ⟨w, hb⟩ := Option.isSome_iff_exists.mp hw
  simp [State.wbufRead, h, hb]

/-- No operation writes an operand of its own command (10_state.md R49). -/
theorem SameOperands.of_apply {i : Instr} {s : State} {op : Op} (d : Nat) (hw : s.WrittenBelowLengths)
    (hop : op.belongsTo i s) : SameOperands i s { op.apply s with draws := d } where
  params := op.apply_params s
  order _ := op.apply_order s
  a _ := op.apply_a s
  n _ := op.apply_n s
  buflen hi := op.apply_buflen hop (by rintro rfl; exact absurd hi (by decide))
  wcnt hi := op.apply_wcnt hop (elim_of_disjoint (by decide) hi)
  v32 hi := congrArg (·.extractLsb' 0 32) (op.apply_v hop (elim_of_disjoint (by decide) hi))
  v64 hi := op.apply_v hop (elim_of_disjoint (by decide) hi)
  bytes hi k j hj := by
    have hout : storedBytes i s ≤ j := (storedBytes_of_readsBuf s hi).trans_le (Nat.zero_le j)
    exact bufRead_of_held (s' := { op.apply s with draws := d }) (hw.1 j hj) (op.apply_buf_outside hop j hout) k
  words hi k j hj := by
    have hout : storedWords i s ≤ j := (storedWords_of_readsWbuf s hi).trans_le (Nat.zero_le j)
    exact wbufRead_of_held (s' := { op.apply s with draws := d }) (hw.2 j hj) (op.apply_wbuf_outside hop j hout) k

/-- A command finds in its result the operands it found before, whatever the draw counter. -/
theorem SameOperands.of_result {i : Instr} {s t : State} (d : Nat) (hw : s.WrittenBelowLengths)
    (h : exec i s = .next t) : SameOperands i s { t with draws := d } := by
  obtain ⟨e, -, rfl⟩ | ⟨-, op, hop, rfl⟩ := exec_cases h
  · have hd := SameOperands.of_draws i d hw
    exact { bytes := hd.bytes, words := hd.words }
  · exact .of_apply d hw hop

/-- Settles O47: the same operands give the same error or operation, which leaves its own result as it is. -/
theorem commandsAreIdempotent : Obligations.CommandsAreIdempotent := by
  intro i s t d hs hw h
  refine (SameOperands.of_result d hw h).exec_next h ?_ ?_
  · rintro e - - rfl; rfl
  · rintro op - rfl; exact op.apply_twice d hs

end Sys2Proof.Proofs

/-! SUPPORT. The decoder and the encoder of 30_encoding.md R90 to R94: they are inverse, and the reserved codes are the
bytes that encode no command. -/

namespace Sys2Proof.Proofs

open Sys2Proof.Machine Sys2Proof.Claims

/-- A group names the format that has it in the GRP column of R90. -/
theorem group_of_ofGroup {g : BitVec 4} {fmt : Format} (h : Format.ofGroup g = some fmt) : fmt.group = g := by
  unfold Format.ofGroup at h
  split_ifs at h with hcr hcv hst hax
  all_goals cases h; exact Eq.symm ‹_›

theorem decodePair_command {f : BitVec 4} {zero one i : Instr} (h : decodePair f zero one = .command i) :
    (i = zero ∧ f = 0b0000#4) ∨ (i = one ∧ f = 0b0001#4) := by
  unfold decodePair at h
  split_ifs at h with h0 h1
  · cases h; exact .inl ⟨rfl, h0⟩
  · cases h; exact .inr ⟨rfl, h1⟩

/-- The selector bits of R91 are FN[2:0] of the conversion's code. -/
theorem fn_encode_conversion :
    ∀ f : BitVec 4, f.getLsbD 3 = false →
      fn (encode (conversion (f.getLsbD 2) (f.getLsbD 1) (f.getLsbD 0))) = f := by
  decide

theorem formatOf_conversion (d t s : Bool) : formatOf (conversion d t s) = .cv := by
  cases d <;> cases t <;> cases s <;> rfl

/-- FN of a format gives a command of that format whose code has that FN (R90, R91). -/
theorem decodeFn_command {fmt : Format} {f : BitVec 4} {i : Instr} (h : decodeFn fmt f = .command i) :
    formatOf i = fmt ∧ fn (encode i) = f := by
  cases fmt with
  | cv =>
    simp only [decodeFn] at h
    split_ifs at h with h3
    cases h
    exact ⟨formatOf_conversion _ _ _, fn_encode_conversion f (Bool.eq_false_iff.mpr h3)⟩
  | cr | st | ax => obtain ⟨rfl, rfl⟩ | ⟨rfl, rfl⟩ := decodePair_command h <;> exact ⟨rfl, by decide⟩

/-- GRP of a command's code is the group of its format (R90, R92). -/
theorem grp_encode (i : Instr) : grp (encode i) = (formatOf i).group := by cases i <;> decide

/-- A command word is its GRP above its FN (R90). -/
theorem grp_append_fn (c : Byte) : grp c ++ fn c = c := BitVec.extractLsb'_append_extractLsb'

theorem decode_encode (i : Instr) : decode (encode i) = .command i := by cases i <;> decide

theorem encode_of_decode {c : Byte} {i : Instr} (h : decode c = .command i) : encode i = c := by
  unfold decode at h
  cases hg : Format.ofGroup (grp c) with
  | none => rw [hg] at h; cases h
  | some fmt =>
    rw [hg] at h
    obtain ⟨rfl, hfn⟩ := decodeFn_command h
    calc encode i = grp (encode i) ++ fn (encode i) := (grp_append_fn _).symm
      _ = grp c ++ fn c := by rw [grp_encode, group_of_ofGroup hg, hfn]
      _ = c := grp_append_fn c

/-- Settles O2: the fields of the code are recovered from the command, and the code from its fields. -/
theorem decodeEncodeAgree : Obligations.DecodeEncodeAgree :=
  fun i _ => ⟨decode_encode i, encode_of_decode⟩

/-- The table of R92 lists every command with its code and format, and nothing else. -/
theorem mem_commandTable_iff (row : Byte × Instr × Format) :
    row ∈ commandTable ↔ ∃ i, row = (encode i, i, formatOf i) := by
  constructor
  · have hrows : ∀ r ∈ commandTable, r = (encode r.2.1, r.2.1, formatOf r.2.1) := by decide
    exact fun h => ⟨row.2.1, hrows row h⟩
  · rintro ⟨i, rfl⟩
    cases i <;> decide

/-- A byte is reserved exactly if it is the code of no row (R92, R94). -/
theorem decode_illegal_iff (c : Byte) : decode c = .illegalCommand ↔ ∀ row ∈ commandTable, c ≠ row.1 := by
  constructor
  · rintro h row hrow rfl
    obtain ⟨i, rfl⟩ := (mem_commandTable_iff row).mp hrow
    rw [decode_encode] at h
    cases h
  · intro h
    cases hd : decode c with
    | illegalCommand => rfl
    | command i => exact absurd (encode_of_decode hd).symm (h _ ((mem_commandTable_iff _).mpr ⟨i, rfl⟩))

/-- Settles O1: the rows are the commands with their codes, and the decoder inverts the code. -/
theorem decodeReadsTheCommandTable : Obligations.DecodeReadsTheCommandTable := by
  refine ⟨fun row hrow => ?_, decode_illegal_iff⟩
  obtain ⟨i, rfl⟩ := (mem_commandTable_iff row).mp hrow
  exact ⟨decode_encode i, rfl, rfl⟩

/-- The ranges of R94 are the complement of the codes of R92. -/
theorem reservedCode_iff (c : Byte) : reservedCode c.toNat ↔ ∀ row ∈ commandTable, c ≠ row.1 := by
  simp only [reservedCode, commandTable, List.forall_mem_cons, List.not_mem_nil, false_imp_iff, implies_true, and_true,
    ne_eq, ← BitVec.toNat_inj, BitVec.toNat_ofNat]
  omega

theorem lt_of_reservedCode {c : Nat} (h : reservedCode c) : c < 256 := by
  unfold reservedCode at h
  omega

/-- A reserved code in flight completes with IllegalCommand at the block's turn (R176). -/
theorem step_illegalCommand {s : State} (hb : s.status.busy = true) (hn : blockIsNext s)
    (hd : decode s.cmd = .illegalCommand) : step s = .next (s.tick.complete .illegalCommand) := by
  rw [step_of_blockIsNext hb hn, hd]
  rfl

/-- Settles O10: the ranges by the table, then the CMD write and the completion event one after the other. -/
theorem reservedCodeCompletesIllegal : Obligations.ReservedCodeCompletesIllegal := by
  have hdecode (c : Byte) : decode c = .illegalCommand ↔ reservedCode c.toNat :=
    (decode_illegal_iff c).trans (reservedCode_iff c).symm
  refine ⟨hdecode, fun s c es hb hc he => ?_⟩
  have hwrite := cmdWriteStartsTheCommand s c _ hb (lt_of_reservedCode hc) he
  have hillegal : decode (BitVec.ofNat 8 c) = .illegalCommand := by
    rwa [hdecode, BitVec.toNat_ofNat, Nat.mod_eq_of_lt (lt_of_reservedCode hc)]
  have hturn : blockIsNext (ticked s) := .inr ⟨es, by simp [ticked, he]⟩
  refine ⟨hwrite, ?_⟩
  have hcomplete := step_illegalCommand (s := (ticked s).issue (BitVec.ofNat 8 c)) rfl hturn hillegal
  calc runSteps 2 s = runSteps 1 ((ticked s).issue (BitVec.ofNat 8 c)) := runSteps_of_step hwrite 1
    _ = .next (((ticked s).issue (BitVec.ofNat 8 c)).tick.complete .illegalCommand) := runSteps_of_step hcomplete 0
    _ = _ := by simp [ticked, State.issue, State.complete, State.tick, done, he]

end Sys2Proof.Proofs

/-! SUPPORT. The turns of a script line run one after the other (30_encoding.md R100, R101): a CMD line with its polls,
LOADB and LOADW. -/

namespace Sys2Proof.Proofs

open Sys2Proof.Machine Sys2Proof.Claims

/-- Settles O12: neither an idle block's turn nor an empty list changes anything of the block. -/
theorem idleBlockWaits : Obligations.IdleBlockWaits := by
  rintro s hb (he | ⟨es, he⟩)
  · refine ⟨s.draws, ?_⟩
    rw [step_waits s he hb, he, List.tail_nil, ← he]
  · refine ⟨s.draws + 1, ?_⟩
    rw [step_block s es he, blockTurn, State.tick_status, hb]
    rfl

/-- A STATUS read records the byte and changes nothing else, idle or busy (R100). -/
theorem step_pollStatus {s : State} {es : List Event} (he : s.events = rdEvent .status :: es) :
    step s = .next { s with events := es, draws := s.draws + 1,
                            observed := .reg .status (s.readReg .status) :: s.observed } := by
  rw [step_host _ _ _ he, perform_allowed _ _ rfl, access, hostReadReg_number]
  simp [State.observe, State.tick, State.readReg, he]

/-- `s` after `k` STATUS reads, with the turns `es` to come. -/
def polled (s : State) (k : Nat) (es : List Event) : State :=
  { s with events := es, draws := s.draws + k,
           observed := List.replicate k (.reg .status (s.readReg .status)) ++ s.observed }

/-- The polls of a CMD line do no more than record STATUS, as often as there are polls (R100). -/
theorem runSteps_polls (n k : Nat) {s : State} {es : List Event}
    (he : s.events = List.replicate k (rdEvent .status) ++ es) :
    runSteps (n + k) s = runSteps n (polled s k es) := by
  induction k generalizing s with
  | zero => obtain rfl : s.events = es := he; rfl
  | succ k ih =>
    rw [← Nat.add_assoc, runSteps_of_step (step_pollStatus he), ih rfl]
    simp [polled, State.readReg, List.replicate_succ', Nat.add_assoc, Nat.add_comm 1]

/-- The CMD write and the polls, with the block's turn taken off the list, give the in-flight state. -/
theorem tick_polled_issue (s : State) (i : Instr) (k : Nat) (es : List Event) :
    (polled (s.tick.issue (encode i)) k (.block :: es)).tick = inFlight s i k es := by
  have hdraws : s.draws + 1 + k + 1 = s.draws + k + 2 := by omega
  simp [polled, inFlight, State.tick, State.issue, State.readReg, hdraws]

/-- Settles O9: the CMD write, the polls, the completion event and the last read, one after the other. -/
theorem commandLineRunsUnderEveryLatency : Obligations.CommandLineRunsUnderEveryLatency := by
  intro s t i k es hb he hexec
  have hwrite : step s = .next (s.tick.issue (encode i)) := by
    rw [step_writeReg hb (encode i).isLt he, State.writeReg, BitVec.ofNat_toNat, BitVec.setWidth_eq]
  have hpolls : (s.tick.issue (encode i)).events =
      List.replicate k (rdEvent .status) ++ .block :: rdEvent .status :: es := by
    simp [he, cmdEvents]
  have hcomplete : step (polled (s.tick.issue (encode i)) k (.block :: rdEvent .status :: es)) = .next t := by
    rw [step_of_blockIsNext rfl (.inr ⟨_, rfl⟩), tick_polled_issue, ← hexec]
    exact congrArg (runDecoded · _) (decode_encode i)
  have hlast : t.events = rdEvent .status :: es := (exec_frame hexec).2.1
  calc runSteps (k + 3) s = runSteps (k + 2) (s.tick.issue (encode i)) := runSteps_of_step hwrite _
    _ = runSteps 2 (polled (s.tick.issue (encode i)) k (.block :: rdEvent .status :: es)) := by
      rw [Nat.add_comm, runSteps_polls 2 k hpolls]
    _ = runSteps 1 t := runSteps_of_step hcomplete 1
    _ = _ := runSteps_of_step (step_pollStatus hlast) 0

/-- A count up to a capacity fits the 16 bits of BUFLEN and WCNT (00_scope.md R10). -/
theorem capacities_lt_of_wf {p : Config.Params} (h : p.wf = true) : p.bufCap < 2 ^ 16 ∧ p.wcap < 2 ^ 16 := by
  simp only [Config.Params.wf, Bool.and_eq_true, decide_eq_true_eq] at h
  omega

/-- `s` after the host wrote the bytes `bs` from BUF cell `i` on, with the turns `es` to come. -/
def bytesWritten (s : State) (i : Nat) (bs : List Byte) (es : List Event) : State :=
  { s with buf := s.buf.writeAll i bs, events := es, draws := s.draws + bs.length }

/-- Writing one byte and then the rest is writing them all. -/
theorem bytesWritten_cons (s : State) (i : Nat) (b : Byte) (bs : List Byte) (es es' : List Event) :
    bytesWritten (bytesWritten s i [b] es') (i + 1) bs es = bytesWritten s i (b :: bs) es := by
  simp [bytesWritten, Memory.writeAll, Nat.add_assoc, Nat.add_comm 1]

/-- The byte writes of a LOADB line fill consecutive cells (R101). -/
theorem runSteps_wbEvents (bs : List Byte) (n i : Nat) {s : State} {es : List Event} (hb : s.status.busy = false)
    (hcap : i + bs.length ≤ s.params.bufCap) (he : s.events = wbEvents i bs ++ es) :
    runSteps (n + bs.length) s = runSteps n (bytesWritten s i bs es) := by
  induction bs generalizing s i with
  | nil => obtain rfl : s.events = es := he; rfl
  | cons b bs ih =>
    rw [List.length_cons] at hcap
    have hstep : step s = .next (bytesWritten s i [b] (wbEvents (i + 1) bs ++ es)) := step_writeBuf hb (by omega) he
    have hcap' : i + 1 + bs.length ≤ s.params.bufCap := by omega
    rw [List.length_cons, ← Nat.add_assoc, runSteps_of_step hstep,
      ih (s := bytesWritten s i [b] _) (i + 1) hb hcap' rfl, bytesWritten_cons]

/-- `s` after the host wrote the words `ws` from WBUF cell `k` on, with the turns `es` to come. -/
def wordsWritten (s : State) (k : Nat) (ws : List Word) (es : List Event) : State :=
  { s with wbuf := s.wbuf.writeAll k ws, events := es, draws := s.draws + ws.length }

/-- Writing one word and then the rest is writing them all. -/
theorem wordsWritten_cons (s : State) (k : Nat) (w : Word) (ws : List Word) (es es' : List Event) :
    wordsWritten (wordsWritten s k [w] es') (k + 1) ws es = wordsWritten s k (w :: ws) es := by
  simp [wordsWritten, Memory.writeAll, Nat.add_assoc, Nat.add_comm 1]

/-- The word writes of a LOADW line fill consecutive cells (R101). -/
theorem runSteps_wwEvents (ws : List Word) (n k : Nat) {s : State} {es : List Event} (hb : s.status.busy = false)
    (hcap : k + ws.length ≤ s.params.wcap) (he : s.events = wwEvents k ws ++ es) :
    runSteps (n + ws.length) s = runSteps n (wordsWritten s k ws es) := by
  induction ws generalizing s k with
  | nil => obtain rfl : s.events = es := he; rfl
  | cons w ws ih =>
    rw [List.length_cons] at hcap
    have hstep : step s = .next (wordsWritten s k [w] (wwEvents (k + 1) ws ++ es)) := step_writeWord hb (by omega) he
    have hcap' : k + 1 + ws.length ≤ s.params.wcap := by omega
    rw [List.length_cons, ← Nat.add_assoc, runSteps_of_step hstep,
      ih (s := wordsWritten s k [w] _) (k + 1) hb hcap' rfl, wordsWritten_cons]

/-- Cell `j` of a range written from index 0 holds element `j`. -/
theorem read?_writeAll_zero {w : Nat} (xs : List (BitVec w)) (m : Memory w) {j : Nat} (h : j < xs.length) :
    Memory.read? (m.writeAll 0 xs) j = some xs[j] := by
  simpa using Memory.read?_writeAll_inside xs m 0 j h

/-- Settles O18: the byte writes by induction, then the write of BUFLEN. -/
theorem loadbFillsTheBuffer : Obligations.LoadbFillsTheBuffer := by
  intro s bs es hb hp hcap he
  have hwrites : s.events = wbEvents 0 bs ++ wrEvent .buflen bs.length :: es := by simpa [ScriptLine.expand] using he
  have hfits : bs.length < 2 ^ Reg.buflen.width := hcap.trans_lt (capacities_lt_of_wf hp).1
  have hlength := (step_writeReg (s := bytesWritten s 0 bs (wrEvent .buflen bs.length :: es)) hb hfits rfl).trans
    (if_pos hcap)
  rw [Nat.add_comm, runSteps_wbEvents bs 1 0 hb (by omega) hwrites, runSteps_of_step hlength]
  refine ⟨_, rfl, fun _ => read?_writeAll_zero bs s.buf, fun j hj => ?_, rfl⟩
  exact Memory.read?_writeAll_outside bs s.buf 0 j (.inr (by omega))

/-- Settles O52: the word writes by induction, then the write of WCNT. -/
theorem loadwFillsTheWordBuffer : Obligations.LoadwFillsTheWordBuffer := by
  intro s ws es hb hp hcap he
  have hwrites : s.events = wwEvents 0 ws ++ wrEvent .wcnt ws.length :: es := by simpa [ScriptLine.expand] using he
  have hfits : ws.length < 2 ^ Reg.wcnt.width := hcap.trans_lt (capacities_lt_of_wf hp).2
  have hlength := (step_writeReg (s := wordsWritten s 0 ws (wrEvent .wcnt ws.length :: es)) hb hfits rfl).trans
    (if_pos hcap)
  rw [Nat.add_comm, runSteps_wwEvents ws 1 0 hb (by omega) hwrites, runSteps_of_step hlength]
  refine ⟨_, rfl, fun _ => read?_writeAll_zero ws s.wbuf, fun k hk => ?_, rfl⟩
  exact Memory.read?_writeAll_outside ws s.wbuf 0 k (.inr (by omega))

end Sys2Proof.Proofs

/-! SUPPORT. The checksum of 40_crc16.md: the shift step is injective, the table step is one byte of the bit-by-bit
definition, the range loop folds that byte over the positions it visits, and what CRCVAL answers (R111 to R118). -/

namespace Sys2Proof.Proofs

open Sys2Proof.Machine Sys2Proof.Claims

/-- Settles O23, all 256 entries of both tables by evaluation. -/
theorem tablesHoldTheBytesOfT16 : Obligations.TablesHoldTheBytesOfT16 :=
  ⟨by decide, by decide⟩

/-- The two tables together are T16 (R112). -/
theorem thi_append_tlo (x : Byte) : thi x ++ tlo x = t16 x := by
  obtain ⟨hlo, hhi⟩ := tablesHoldTheBytesOfT16.1 x
  rw [hlo, hhi]
  exact BitVec.extractLsb'_append_extractLsb'

/-! ### Shift steps -/

theorem shiftStep_of_even {c : BitVec 16} (h : c.getLsbD 0 = false) : shiftStep c = c >>> 1 := by
  rw [shiftStep, h]
  exact if_neg Bool.false_ne_true

/-- Only zero shifts to zero: the feedback constant has bit 15 set, where a right shift brings in 0 (R111). -/
theorem eq_zero_of_shiftStep {c : BitVec 16} (h : shiftStep c = 0#16) : c = 0#16 := by
  cases hc : c.getLsbD 0 with
  | false =>
    rw [shiftStep_of_even hc] at h
    refine BitVec.eq_of_getLsbD_eq fun i _ => ?_
    cases i with
    | zero => exact hc
    | succ i =>
      have hbit := congrArg (·.getLsbD i) h
      simpa [Nat.add_comm] using hbit
  | true =>
    have hbit := congrArg (·.getLsbD 15) h
    simp [shiftStep, hc, Config.crcPoly] at hbit

theorem eq_zero_of_shiftSteps (n : Nat) {c : BitVec 16} (h : shiftSteps n c = 0#16) : c = 0#16 := by
  induction n generalizing c with
  | zero => exact h
  | succ n ih => exact eq_zero_of_shiftStep (ih h)

theorem shiftSteps_injective (n : Nat) : Function.Injective (shiftSteps n) := by
  intro c d h
  have hzero : shiftSteps n (c ^^^ d) = 0#16 := by rw [shiftSteps_xor, h, BitVec.xor_self]
  exact BitVec.xor_eq_zero_iff.mp (eq_zero_of_shiftSteps n hzero)

/-- While the bits shifted out are 0, no feedback happens (R111). -/
theorem shiftSteps_of_low_zero (n : Nat) {c : BitVec 16} (h : ∀ i < n, c.getLsbD i = false) :
    shiftSteps n c = c >>> n := by
  induction n generalizing c with
  | zero => simp [shiftSteps]
  | succ n ih =>
    have hrest : ∀ i < n, (c >>> 1).getLsbD i = false := fun i hi => by
      rw [BitVec.getLsbD_ushiftRight]
      exact h (1 + i) (by omega)
    rw [shiftSteps, shiftStep_of_even (h 0 n.succ_pos), ih hrest, ← BitVec.shiftRight_add, Nat.add_comm]

theorem setWidth_byte (x : Byte) : x.setWidth 16 = 0#8 ++ x := BitVec.setWidth_eq_append (by decide)

/-- A high byte moves into the low byte in eight steps (R113: `c >> 8`). -/
theorem shiftSteps_high (hi : Byte) : shiftSteps 8 (hi ++ 0#8) = 0#8 ++ hi := by
  rw [shiftSteps_of_low_zero 8 fun i hi => by rw [BitVec.getLsbD_append, if_pos hi, BitVec.getLsbD_zero]]
  calc (hi ++ 0#8) >>> 8 = 0#8 ++ (hi ++ 0#8).extractLsb' 8 8 := BitVec.ushiftRight_eq_extractLsb'_of_lt (by decide)
    _ = 0#8 ++ hi := by rw [BitVec.extractLsb'_append_eq_left]

/-! ### One byte -/

/-- One byte of R111 is T16 of the index, over the old high byte (R113). -/
theorem crcByte_append (hi lo b : Byte) : crcByte (hi ++ lo) b = t16 (lo ^^^ b) ^^^ (0#8 ++ hi) := by
  have hsplit : (hi ++ lo) ^^^ b.setWidth 16 = (lo ^^^ b).setWidth 16 ^^^ (hi ++ 0#8) := by
    rw [setWidth_byte, setWidth_byte, BitVec.xor_append, BitVec.xor_append, BitVec.xor_zero,
      BitVec.zero_xor, BitVec.xor_zero]
  rw [crcByte, hsplit, shiftSteps_xor, shiftSteps_high, t16]

/-- The table step is one byte of the bit-by-bit definition (R113). -/
theorem crcByte_eq_crcStep (lo hi b : Byte) :
    crcByte (hi ++ lo) b = (crcStep lo hi b).2 ++ (crcStep lo hi b).1 := by
  rw [crcByte_append, ← thi_append_tlo, BitVec.xor_append, BitVec.xor_zero, BitVec.xor_comm (tlo _)]
  rfl

theorem crcByte_left_injective (b : Byte) : Function.Injective (crcByte · b) := by
  intro c d h
  exact (BitVec.xor_left_inj _).mp (shiftSteps_injective 8 h)

theorem crcByte_injective (c : BitVec 16) : Function.Injective (crcByte c) := by
  intro x y h
  have hw : x.setWidth 16 = y.setWidth 16 := (BitVec.xor_right_inj _).mp (shiftSteps_injective 8 h)
  rw [setWidth_byte, setWidth_byte] at hw
  exact (BitVec.append_right_inj _).mp hw

/-- Folding the table step is folding the byte step on the packed pair (R113). -/
theorem foldl_crcStep_packed (bs : List Byte) (p : Byte × Byte) :
    let q := bs.foldl (fun p b => crcStep p.1 p.2 b) p
    q.2 ++ q.1 = bs.foldl crcByte (p.2 ++ p.1) := by
  induction bs generalizing p with
  | nil => rfl
  | cons b bs ih => rw [List.foldl_cons, List.foldl_cons, crcByte_eq_crcStep]; exact ih _

/-- Settles O24, from the table step on one byte and its fold. -/
theorem tableStepEqualsTheBitDefinition : Obligations.TableStepEqualsTheBitDefinition :=
  ⟨fun lo hi b => ⟨rfl, crcByte_eq_crcStep lo hi b⟩, fun bs => foldl_crcStep_packed bs (0xFF#8, 0xFF#8)⟩

/-! ### The range function -/

/-- One position below the bound is one byte of R111 on the packed checksum (R114). -/
theorem packed_visit_read (read : Nat → Nat → Byte) (a len : Nat) (w : Working) (h : a + w.i < len) :
    (w.visit read a len).packed = crcByte w.packed (read w.i (a + w.i)) := by
  rw [Working.visit_read read a len w h]
  exact (crcByte_eq_crcStep w.lo w.hi _).symm

/-- The bytes of the positions from `i` on, `m` of them. -/
def bytesFrom (read : Nat → Nat → Byte) (a i m : Nat) : List Byte := (List.range' i m).map fun k => read k (a + k)

/-- The loop folds the byte step over the positions below the bound and skips the rest (R114, R116 (b)). -/
theorem crcLoop_packed (read : Nat → Nat → Byte) (a len n : Nat) (w : Working) :
    (crcLoop read a len n w).packed = (bytesFrom read a w.i (min n (len - (a + w.i)))).foldl crcByte w.packed := by
  induction n generalizing w with
  | zero => rw [Nat.zero_min]; rfl
  | succ n ih =>
    by_cases h : a + w.i < len
    · have hlen : min (n + 1) (len - (a + w.i)) = min n (len - (a + (w.i + 1))) + 1 := by omega
      rw [crcLoop, ih, Working.visit_i, packed_visit_read read a len w h, hlen]
      rfl
    · have hlen : min (n + 1) (len - (a + w.i)) = 0 := by omega
      rw [crcLoop_skips read a len _ w (by omega), hlen]
      rfl

/-- `crc_range` is the bit-by-bit checksum of the bytes it visits (R116 (b)), none when `a` is past the bound. -/
theorem crcRange_eq_crcBits (read : Nat → Nat → Byte) (a n len : Nat) :
    crcRange read a n len = crcBits ((List.range (min n (len - a))).map fun i => read i (a + i)) := by
  rw [List.range_eq_range']
  exact crcLoop_packed read a len n .start

/-- A range without a position inside the bound leaves CRC_INIT (R116 (a), (c)). -/
theorem crcRange_eq_init (read : Nat → Nat → Byte) {a n len : Nat} (h : min n (len - a) = 0) :
    crcRange read a n len = 0xFFFF#16 := by
  rw [crcRange_eq_crcBits, h]
  rfl

theorem t16_zero : t16 0#8 = 0x0000#16 := by decide

/-- A byte equal to the low byte clears it, and the high byte moves down. -/
theorem crcByte_append_self (hi lo : Byte) : crcByte (hi ++ lo) lo = 0#8 ++ hi := by
  rw [crcByte_append, BitVec.xor_self, t16_zero, BitVec.zero_xor]

theorem highByte_append_lowByte (c : BitVec 16) : highByte c ++ lowByte c = c := BitVec.extractLsb'_append_extractLsb'

/-- The checksum's own bytes, low byte first, bring it to 0 (R116 (e)). -/
theorem foldl_crcByte_own_bytes (c : BitVec 16) : [lowByte c, highByte c].foldl crcByte c = 0x0000#16 :=
  calc crcByte (crcByte c (lowByte c)) (highByte c)
      = crcByte (crcByte (highByte c ++ lowByte c) (lowByte c)) (highByte c) := by rw [highByte_append_lowByte]
    _ = 0#8 ++ 0#8 := by rw [crcByte_append_self, crcByte_append_self]

/-- Settles O25: each law from the range function as a checksum of the bytes it visits. -/
theorem rangeFunctionLaws : Obligations.RangeFunctionLaws := by
  intro read a n len
  refine ⟨crcRange_eq_init read (Nat.zero_min _), fun _ => crcRange_eq_crcBits read a n len, fun h => ?_,
    fun xs ys => List.foldl_append, fun m => List.foldl_append.trans (foldl_crcByte_own_bytes (crcBits m))⟩
  exact crcRange_eq_init read (by omega)

/-- Settles O26: CRCCALC writes `crc_range` of its operands (R115). -/
theorem crccalcChecksumsItsRange : Obligations.CrccalcChecksumsItsRange := by
  intro s
  have hcrc : crcRange s.bufRead s.start s.count s.bufBound = crcBits (visited s 0 s.a.toNat s.n.toNat) := by
    rw [crcRange_eq_crcBits]
    simp only [visited, Nat.zero_add]
  rw [← hcrc]
  rfl

/-! ### CRCVAL -/

section Ends
variable {s : State}

theorem execCrcval_of_short (h : s.n.toNat < 6) : execCrcval s = .next (s.answer .tooShort) := if_pos h

theorem execCrcval_of_outside (h6 : 6 ≤ s.n.toNat) (hl : s.buflen.toNat < s.n.toNat) :
    execCrcval s = .next (s.complete .boundsError) :=
  (if_neg h6.not_gt).trans (if_pos hl)

theorem execCrcval_of_unitIdOutside (h6 : 6 ≤ s.n.toNat) (hl : s.n.toNat ≤ s.buflen.toNat)
    (hu : s.unitIdOutside = true) : execCrcval s = .next (s.answer .unitIdRange) :=
  (if_neg h6.not_gt).trans ((if_neg hl.not_gt).trans (if_pos hu))

/-- The comparison is reached: its outcome decides between acceptance and CRCMismatch (R117). -/
theorem execCrcval_of_compared (h6 : 6 ≤ s.n.toNat) (hl : s.n.toNat ≤ s.buflen.toNat)
    (hu : s.unitIdOutside = false) :
    execCrcval s = .next ({ s with crc := s.frameCrc }.answer (if s.trailerMatches then .none else .crcMismatch)) :=
  (if_neg h6.not_gt).trans ((if_neg hl.not_gt).trans (if_neg (Bool.eq_false_iff.mp hu)))

end Ends

/-- CRCVAL recomputes the checksum of the first N - 2 bytes inside BUFLEN (R117). -/
theorem frameCrc_eq_crcBits (s : State) : s.frameCrc = crcBits (visited s 1 0 (s.n.toNat - 2)) := by
  rw [State.frameCrc, crcRange_eq_crcBits]
  simp only [visited, Nat.add_comm 1]

theorem trailerIs_iff (s : State) : trailerIs s s.frameCrc ↔ s.trailerMatches = true := (trailerMatches_iff s).symm

/-- Settles O27: one lemma per end of CRCVAL. -/
theorem crcvalAnswersTheFrame : Obligations.CrcvalAnswersTheFrame := by
  intro s
  refine ⟨execCrcval_of_short, execCrcval_of_outside,
    fun h6 hl hu => execCrcval_of_unitIdOutside h6 hl ((unitIdOutside_iff s).mpr hu), fun h6 hl hmin hmax => ?_⟩
  have hu : s.unitIdOutside = false := by
    rw [Bool.eq_false_iff, Ne, unitIdOutside_iff]
    omega
  rw [← frameCrc_eq_crcBits, trailerIs_iff]
  refine ⟨fun ht => (execCrcval_of_compared h6 hl hu).trans ?_, fun ht => (execCrcval_of_compared h6 hl hu).trans ?_⟩
  · rw [if_pos ht]
    rfl
  · rw [if_neg ht]
    rfl

/-! ### One changed byte -/

/-- What acceptance says about the frame (R117). -/
theorem accepted_of_execCrcval {s t : State} (h : execCrcval s = .next t) (herr : t.status.err = .none)
    (hv : t.status.valid = true) :
    6 ≤ s.n.toNat ∧ s.n.toNat ≤ s.buflen.toNat ∧ s.unitIdOutside = false ∧ s.trailerMatches = true ∧
      t.crc = s.frameCrc := by
  obtain ⟨-, e⟩ | ⟨-, -, e⟩ | ⟨-, -, -, e⟩ | ⟨h6, hl, hu, e⟩ := execCrcval_cases s <;> cases h.symm.trans e
  · cases hv
  · cases herr
  · cases hv
  · refine ⟨h6, hl, hu, ?_, rfl⟩
    by_contra ht
    rw [if_neg ht] at hv
    cases hv

/-- Two different fold starts stay different over any bytes. -/
theorem foldl_crcByte_injective (bs : List Byte) : Function.Injective fun c => bs.foldl crcByte c := by
  induction bs with
  | nil => exact Function.injective_id
  | cons b bs ih => exact ih.comp (crcByte_left_injective b)

/-- Sequences that differ in one byte alone have different checksums (R118). -/
theorem crcBits_set_injective {bs : List Byte} {j : Nat} (hj : j < bs.length) :
    Function.Injective fun x => crcBits (bs.set j x) := by
  intro x y h
  simp only [List.set_eq_take_append_cons_drop, if_pos hj, crcBits, List.foldl_append, List.foldl_cons] at h
  exact crcByte_injective _ (foldl_crcByte_injective _ h)

/-- `s` with the byte `x` in BUF cell `j`. -/
def withByte (s : State) (j : Nat) (x : Byte) : State := { s with buf := s.buf.write j x }

theorem visited_length (s : State) (k a n : Nat) :
    (visited s k a n).length = min n (s.buflen.toNat - a) := by
  rw [visited, List.length_map, List.length_range]

theorem getElem_visited (s : State) (k a n : Nat) {i : Nat} (h : i < (visited s k a n).length) :
    (visited s k a n)[i] = s.bufRead (k + i) (a + i) := by
  simp only [visited, List.getElem_map, List.getElem_range]

section Changed
variable (s : State) {j : Nat} (x : Byte)

@[simp] theorem bufRead_withByte_same (k : Nat) : (withByte s j x).bufRead k j = x := by
  simp [State.bufRead, withByte]

theorem bufRead_withByte_other (k : Nat) {i : Nat} (h : i ≠ j) : (withByte s j x).bufRead k i = s.bufRead k i := by
  simp [State.bufRead, withByte, Memory.read?_write_other _ _ h]

/-- The visited bytes after a change are the old ones with that byte replaced, if it is one of them. -/
theorem visited_withByte (k n : Nat) : visited (withByte s j x) k 0 n = (visited s k 0 n).set j x := by
  refine List.ext_getElem (by rw [List.length_set, visited_length, visited_length]; rfl) fun i _ _ => ?_
  rw [getElem_visited, List.getElem_set, getElem_visited, Nat.zero_add]
  split
  · next h => rw [h, bufRead_withByte_same]
  · next h => exact bufRead_withByte_other s x _ (Ne.symm h)

theorem frameCrc_withByte : (withByte s j x).frameCrc = crcBits ((visited s 1 0 (s.n.toNat - 2)).set j x) := by
  rw [← visited_withByte]
  exact frameCrc_eq_crcBits _

theorem bufRead_of_read? {b : Byte} (hb : s.buf.read? j = some b) (k : Nat) : s.bufRead k j = b := by
  rw [State.bufRead, hb, Option.getD_some]

/-- A byte of the frame before the trailer is a byte the checksum sees. -/
theorem frameCrc_withByte_ne {b : Byte} (hl : s.n.toNat ≤ s.buflen.toNat) (hj : j < s.n.toNat - 2)
    (hb : s.buf.read? j = some b) (hx : x ≠ b) : (withByte s j x).frameCrc ≠ s.frameCrc := by
  have hlen : j < (visited s 1 0 (s.n.toNat - 2)).length := by rw [visited_length]; omega
  have hself : (visited s 1 0 (s.n.toNat - 2)).set j b = visited s 1 0 (s.n.toNat - 2) := by
    have hget : (visited s 1 0 (s.n.toNat - 2))[j] = b := by
      rw [getElem_visited, Nat.zero_add, bufRead_of_read? s hb]
    rw [← hget, List.set_getElem_self]
  intro h
  rw [frameCrc_withByte, frameCrc_eq_crcBits, ← hself, List.set_set] at h
  exact hx (crcBits_set_injective hlen h)

/-- The checksum does not cover the trailer. -/
theorem frameCrc_withByte_trailer (hj : s.n.toNat - 2 ≤ j) : (withByte s j x).frameCrc = s.frameCrc := by
  have hlen : (visited s 1 0 (s.n.toNat - 2)).length ≤ j := by rw [visited_length]; omega
  rw [frameCrc_withByte, List.set_eq_of_length_le hlen, frameCrc_eq_crcBits]

/-- The new byte in a matching frame breaks the match: either the checksum moved while the trailer stayed, or the
trailer moved while the checksum stayed (R118). -/
theorem trailerMatches_withByte {b : Byte} (hl : s.n.toNat ≤ s.buflen.toNat) (hj : j < s.n.toNat)
    (hb : s.buf.read? j = some b) (hx : x ≠ b) (ht : s.trailerMatches = true) :
    (withByte s j x).trailerMatches = false := by
  rw [Bool.eq_false_iff, Ne, trailerMatches_iff]
  obtain ⟨hlow, hhigh⟩ := (trailerMatches_iff s).mp ht
  rintro ⟨hlow', hhigh'⟩
  change (withByte s j x).bufRead (s.n.toNat - 1) (s.n.toNat - 2) = _ at hlow'
  change (withByte s j x).bufRead s.n.toNat (s.n.toNat - 1) = _ at hhigh'
  have hheld := bufRead_of_read? s hb
  obtain h | rfl | rfl : j < s.n.toNat - 2 ∨ j = s.n.toNat - 2 ∨ j = s.n.toNat - 1 := by omega
  · rw [bufRead_withByte_other s x _ (by omega), hlow] at hlow'
    rw [bufRead_withByte_other s x _ (by omega), hhigh] at hhigh'
    refine frameCrc_withByte_ne s x hl h hb hx ?_
    rw [← highByte_append_lowByte s.frameCrc, hlow', hhigh', highByte_append_lowByte]
  · rw [bufRead_withByte_same, frameCrc_withByte_trailer s x le_rfl, ← hlow, hheld] at hlow'
    exact hx hlow'
  · rw [bufRead_withByte_same, frameCrc_withByte_trailer s x (by omega), ← hhigh, hheld] at hhigh'
    exact hx hhigh'

/-- With an accepted unit id before, it is outside now only if it is the byte that changed. -/
theorem unitIdOutside_withByte (hu : s.unitIdOutside = false) :
    (withByte s j x).unitIdOutside = true ↔ j = 0 ∧ (x.toNat < 1 ∨ 247 < x.toNat) := by
  rw [unitIdOutside_iff]
  by_cases h : j = 0
  · subst h
    simp
  · rw [bufRead_withByte_other s x 0 (Ne.symm h), ← unitIdOutside_iff]
    simp [hu, h]

end Changed

theorem xor_bit_ne (b : Byte) {bit : Nat} (h : bit < 8) : b ^^^ (1#8 <<< bit) ≠ b := by
  intro heq
  have hbit := congrArg (·.getLsbD bit) heq
  simp [h] at hbit

/-- Settles O28: the frame's comparison fails after the flip, unless the unit id test rejects it first. -/
theorem singleBitFlipIsRejected : Obligations.SingleBitFlipIsRejected := by
  intro s t j bit b h herr hv hj hbit hb b'
  obtain ⟨h6, hl, hu, ht, hcrc⟩ := accepted_of_execCrcval h herr hv
  have hne : b' ≠ b := xor_bit_ne b hbit
  have hunit := unitIdOutside_withByte s (j := j) b' hu
  cases hu' : (withByte s j b').unitIdOutside with
  | true =>
    refine ⟨_, execCrcval_of_unitIdOutside (s := withByte s j b') h6 hl hu', rfl, rfl, ?_, nofun⟩
    exact (if_pos (hunit.mp hu')).symm
  | false =>
    have hexec := execCrcval_of_compared (s := withByte s j b') h6 hl hu'
    rw [trailerMatches_withByte s b' hl hj hb hne ht] at hexec
    refine ⟨_, hexec, rfl, rfl, ?_, fun _ => ⟨fun hj' => ?_, fun hj' => ?_⟩⟩
    · rw [if_neg (hunit.not.mp (by simp [hu']))]
      rfl
    · rw [hcrc]
      exact frameCrc_withByte_ne s b' hl hj' hb hne
    · rw [hcrc]
      exact frameCrc_withByte_trailer s b' hj'

end Sys2Proof.Proofs

/-! SUPPORT. The word order of the numeric conversions (41_word_order.md): combine and split are inverse under one order
and reverse the words under the other (R132, R141), and what the eight commands do with the words (R133 to R140). -/

namespace Sys2Proof.Proofs

open Sys2Proof.Machine Sys2Proof.Claims

/-! The two orders on words alone. -/

theorem split2_low_getElem? (x : BitVec 32) {k : Nat} (h : k < 2) :
    (split2 .lowWordFirst x)[k]? = some (x.extractLsb' (16 * k) 16) := by
  match k, h with
  | 0, _ | 1, _ => rfl

theorem split4_low_getElem? (y : BitVec 64) {k : Nat} (h : k < 4) :
    (split4 .lowWordFirst y)[k]? = some (y.extractLsb' (16 * k) 16) := by
  match k, h with
  | 0, _ | 1, _ | 2, _ | 3, _ => rfl

theorem split4_high_getElem? (y : BitVec 64) {k : Nat} (h : k < 4) :
    (split4 .highWordFirst y)[k]? = some (y.extractLsb' (16 * (3 - k)) 16) := by
  match k, h with
  | 0, _ | 1, _ | 2, _ | 3, _ => rfl

/-- The halves of a value built from two words, from the lower up. -/
theorem extractLsb'_of_two_words (w0 w1 : Word) :
    let x : BitVec 32 := w1 ++ w0
    x.extractLsb' 0 16 = w0 ∧ x.extractLsb' 16 16 = w1 :=
  ⟨BitVec.extractLsb'_append_eq_right, BitVec.extractLsb'_append_eq_left⟩

/-- The quarters of a value built from four words, from the lowest up. -/
theorem extractLsb'_of_four_words (w0 w1 w2 w3 : Word) :
    let y : BitVec 64 := w3 ++ w2 ++ w1 ++ w0
    y.extractLsb' 0 16 = w0 ∧ y.extractLsb' 16 16 = w1 ∧ y.extractLsb' 32 16 = w2 ∧ y.extractLsb' 48 16 = w3 := by
  have above {n start : Nat} (xs : BitVec n) (w : Word) :
      (xs ++ w).extractLsb' (16 + start) 16 = xs.extractLsb' start 16 := by
    rw [BitVec.extractLsb'_append_eq_of_le (by omega), Nat.add_sub_cancel_left]
  exact ⟨BitVec.extractLsb'_append_eq_right,
    (above (start := 0) _ w0).trans BitVec.extractLsb'_append_eq_right,
    ((above (start := 16) _ w0).trans (above (start := 0) _ w1)).trans BitVec.extractLsb'_append_eq_right,
    ((above (start := 32) _ w0).trans (above (start := 16) _ w1)).trans BitVec.extractLsb'_append_eq_left⟩

theorem split2_combine2 (o : WordOrder) (w0 w1 : Word) : split2 o (combine2 o w0 w1) = [w0, w1] := by
  cases o with
  | lowWordFirst => simp [split2, combine2, extractLsb'_of_two_words w0 w1]
  | highWordFirst => simp [split2, combine2, extractLsb'_of_two_words w1 w0]

theorem split4_combine4 (o : WordOrder) (w0 w1 w2 w3 : Word) :
    split4 o (combine4 o w0 w1 w2 w3) = [w0, w1, w2, w3] := by
  cases o with
  | lowWordFirst => simp [split4, combine4, extractLsb'_of_four_words w0 w1 w2 w3]
  | highWordFirst => simp [split4, combine4, extractLsb'_of_four_words w3 w2 w1 w0]

theorem eq_low_and_high_of_ne {o o' : WordOrder} (h : o' ≠ o) :
    (o = .lowWordFirst ∧ o' = .highWordFirst) ∨ (o = .highWordFirst ∧ o' = .lowWordFirst) := by
  cases o <;> cases o' <;> simp at h ⊢

/-- Two words split off combine to the value again (R141). -/
theorem combine2_split2 (o : WordOrder) (x : BitVec 32) :
    ∃ w0 w1, split2 o x = [w0, w1] ∧ combine2 o w0 w1 = x := by
  have whole : x.extractLsb' 16 16 ++ x.extractLsb' 0 16 = x := BitVec.extractLsb'_append_extractLsb'
  cases o <;> exact ⟨_, _, rfl, whole⟩

/-- Under the other order they combine to the value with its words exchanged (R141). -/
theorem combine2_split2_other {o o' : WordOrder} (h : o' ≠ o) (x : BitVec 32) :
    ∃ w0 w1, split2 o x = [w0, w1] ∧ combine2 o' w0 w1 = x.extractLsb' 0 16 ++ x.extractLsb' 16 16 := by
  obtain ⟨rfl, rfl⟩ | ⟨rfl, rfl⟩ := eq_low_and_high_of_ne h <;> exact ⟨_, _, rfl, rfl⟩

/-- Four words split off combine to the value again (R141). -/
theorem combine4_split4 (o : WordOrder) (y : BitVec 64) :
    ∃ w0 w1 w2 w3, split4 o y = [w0, w1, w2, w3] ∧ combine4 o w0 w1 w2 w3 = y := by
  have upper2 : y.extractLsb' 48 16 ++ y.extractLsb' 32 16 = y.extractLsb' 32 32 :=
    BitVec.extractLsb'_append_extractLsb'_eq_extractLsb' rfl
  have upper3 : y.extractLsb' 32 32 ++ y.extractLsb' 16 16 = y.extractLsb' 16 48 :=
    BitVec.extractLsb'_append_extractLsb'_eq_extractLsb' rfl
  have whole : y.extractLsb' 48 16 ++ y.extractLsb' 32 16 ++ y.extractLsb' 16 16 ++ y.extractLsb' 0 16 = y := by
    rw [upper2, upper3]
    exact BitVec.extractLsb'_append_extractLsb'
  cases o <;> exact ⟨_, _, _, _, rfl, whole⟩

/-- Under the other order they combine to the value with its words backwards (R141). -/
theorem combine4_split4_other {o o' : WordOrder} (h : o' ≠ o) (y : BitVec 64) :
    ∃ w0 w1 w2 w3, split4 o y = [w0, w1, w2, w3] ∧ combine4 o' w0 w1 w2 w3 =
      y.extractLsb' 0 16 ++ y.extractLsb' 16 16 ++ y.extractLsb' 32 16 ++ y.extractLsb' 48 16 := by
  obtain ⟨rfl, rfl⟩ | ⟨rfl, rfl⟩ := eq_low_and_high_of_ne h <;> exact ⟨_, _, _, _, rfl, rfl⟩

/-- Settles O29: the words of split by their places, and those of combine by splitting it again. -/
theorem combineAndSplitFollowTheWordOrder : Obligations.CombineAndSplitFollowTheWordOrder := by
  intro o w0 w1 w2 w3 x y ordered
  have two (x : BitVec 32) : ordered (split2 o x) = split2 .lowWordFirst x := by cases o <;> rfl
  have four (y : BitVec 64) : ordered (split4 o y) = split4 .lowWordFirst y := by cases o <;> rfl
  refine ⟨fun k hk => ?_, fun k hk => ?_, fun k hk => ?_, fun k hk => ?_, split2_combine2 o w0 w1,
    split4_combine4 o w0 w1 w2 w3⟩
  · rw [← split2_combine2 o w0 w1, two, split2_low_getElem? _ hk]
  · rw [← split4_combine4 o w0 w1 w2 w3, four, split4_low_getElem? _ hk]
  · rw [two, split2_low_getElem? _ hk]
  · rw [four, split4_low_getElem? _ hk]

/-! The commands: each size once, for the integer and the floating-point command together (R131). -/

section Commands
variable {i : Instr} {s : State}

theorem exec_of_no_error (h : errorOf i s = .none) : exec i s = .next ((operation i s).apply s) :=
  (exec_eq_ending i s).trans (congrArg _ (ending_of_none h))

theorem exec_of_error {e : Err} (h : errorOf i s = e) (he : e ≠ .none) : exec i s = .next (s.complete e) :=
  (exec_eq_ending i s).trans (congrArg _ (ending_of_error h he))

theorem exec_toWords2 {ws : List Word} (h : i = .i322r ∨ i = .f322r) (hs : split2 s.order s.value32 = ws) :
    exec i s = .next ((Op.words ws).apply s) := by
  subst hs
  obtain rfl | rfl := h <;> rfl

theorem exec_toWords4 {ws : List Word} (h : i = .i642r ∨ i = .f642r) (hs : split4 s.order s.v = ws) :
    exec i s = .next ((Op.words ws).apply s) := by
  subst hs
  obtain rfl | rfl := h <;> rfl

theorem exec_toValue32 {o : WordOrder} (h : i = .r2i32 ∨ i = .r2f32) (hn : s.wcnt.toNat = 2) (ho : s.order = o) :
    exec i s = .next ((Op.value (zext64 (combine2 o (s.wbufRead 0 0) (s.wbufRead 1 1)))).apply s) := by
  subst ho
  obtain rfl | rfl := h <;> exact exec_of_no_error (if_pos hn)

theorem exec_toValue64 {o : WordOrder} (h : i = .r2i64 ∨ i = .r2f64) (hn : s.wcnt.toNat = 4) (ho : s.order = o) :
    exec i s = .next ((Op.value
      (combine4 o (s.wbufRead 0 0) (s.wbufRead 1 1) (s.wbufRead 2 2) (s.wbufRead 3 3))).apply s) := by
  subst ho
  obtain rfl | rfl := h <;> exact exec_of_no_error (if_pos hn)

end Commands

/-- Cell `k` of the words just stored holds word `k`. -/
theorem Op.apply_words_read? (s : State) (ws : List Word) {k : Nat} (h : k < ws.length) :
    ((Op.words ws).apply s).wbuf.read? k = ws[k]? := by
  rw [List.getElem?_eq_getElem h]
  exact read?_writeAll_zero ws s.wbuf h

/-- What storing words changes: WBUF, WCNT and the completion (10_state.md R34, R49). -/
theorem Op.apply_words_eq (s : State) {ws : List Word} {n : Nat} (h : ws.length = n) :
    let t := (Op.words ws).apply s
    t = { s with wbuf := t.wbuf, wcnt := BitVec.ofNat 16 n, status := done s .none } := by
  subst h
  rfl

/-- Settles O32: the two stored words by their order, and the cells from 2 on outside the stored range. -/
theorem valueBecomesTwoWords : Obligations.ValueBecomesTwoWords := by
  intro s i hi
  have hlen := split2_length s.order s.value32
  refine ⟨_, exec_toWords2 hi rfl, fun ho => ?_, fun ho => ?_, fun k hk => ?_, ?_⟩
  · rw [Op.apply_words_read? _ _ (by omega), Op.apply_words_read? _ _ (by omega), ho]
    simp [split2, BitVec.extractLsb'_extractLsb'_of_le]
  · rw [Op.apply_words_read? _ _ (by omega), Op.apply_words_read? _ _ (by omega), ho]
    simp [split2, BitVec.extractLsb'_extractLsb'_of_le]
  · exact Memory.read?_writeAll_outside _ s.wbuf 0 k (.inr (by omega))
  · exact Op.apply_words_eq s hlen

/-- Settles O33: the four stored words by their order, and the cells from 4 on outside the stored range. -/
theorem valueBecomesFourWords : Obligations.ValueBecomesFourWords := by
  intro s i hi
  have hlen := split4_length s.order s.v
  refine ⟨_, exec_toWords4 hi rfl, fun ho k hk => ?_, fun ho k hk => ?_, fun k hk => ?_, ?_⟩
  · rw [Op.apply_words_read? _ _ (by omega), ho, split4_low_getElem? _ hk]
  · rw [Op.apply_words_read? _ _ (by omega), ho, split4_high_getElem? _ hk]
  · exact Memory.read?_writeAll_outside _ s.wbuf 0 k (.inr (by omega))
  · exact Op.apply_words_eq s hlen

/-- Settles O30: the operation with the order put in, and the error of any other count. -/
theorem twoWordsBecomeAValue : Obligations.TwoWordsBecomeAValue := by
  intro s i hi
  refine ⟨fun hn ho => ?_, fun hn ho => ?_, fun hn => ?_⟩
  · exact exec_toValue32 hi hn ho
  · exact exec_toValue32 hi hn ho
  · obtain rfl | rfl := hi <;> exact exec_of_error (if_neg hn) nofun

/-- Settles O31: the operation with the order put in, and the error of any other count. -/
theorem fourWordsBecomeAValue : Obligations.FourWordsBecomeAValue := by
  intro s i hi
  refine ⟨fun hn ho => ?_, fun hn ho => ?_, fun hn => ?_⟩
  · exact exec_toValue64 hi hn ho
  · exact exec_toValue64 hi hn ho
  · obtain rfl | rfl := hi <;> exact exec_of_error (if_neg hn) nofun

/-! One command after the other (R141, R215). -/

/-- A read of the words just stored sees them, whatever the read's number. -/
theorem Op.apply_words_wbufRead (s : State) (ws : List Word) {k : Nat} (h : k < ws.length) (j : Nat) :
    ((Op.words ws).apply s).wbufRead j k = ws[k] := by
  rw [State.wbufRead, Op.apply_words_read? s ws h, List.getElem?_eq_getElem h, Option.getD_some]

/-- Two words just stored are combined under the order now in force. -/
theorem exec_toValue32_of_stored {i : Instr} (hi : i = .r2i32 ∨ i = .r2f32) (s : State) (w0 w1 : Word)
    (o : WordOrder) :
    let t : State := { (Op.words [w0, w1]).apply s with order := o }
    exec i t = .next ((Op.value (zext64 (combine2 o w0 w1))).apply t) := by
  intro t
  have read (k : Nat) (hk : k < 2) : t.wbufRead k k = [w0, w1][k] := Op.apply_words_wbufRead s [w0, w1] hk k
  rw [exec_toValue32 (o := o) hi rfl rfl, read 0 (by decide), read 1 (by decide)]
  rfl

/-- Four words just stored are combined under the order now in force. -/
theorem exec_toValue64_of_stored {i : Instr} (hi : i = .r2i64 ∨ i = .r2f64) (s : State) (w0 w1 w2 w3 : Word)
    (o : WordOrder) :
    let t : State := { (Op.words [w0, w1, w2, w3]).apply s with order := o }
    exec i t = .next ((Op.value (combine4 o w0 w1 w2 w3)).apply t) := by
  intro t
  have read (k : Nat) (hk : k < 4) : t.wbufRead k k = [w0, w1, w2, w3][k] :=
    Op.apply_words_wbufRead s [w0, w1, w2, w3] hk k
  rw [exec_toValue64 (o := o) hi rfl rfl, read 0 (by decide), read 1 (by decide), read 2 (by decide),
    read 3 (by decide)]
  rfl

/-- Settles O34: the stored words combined under the order that split them. -/
theorem valueRoundTripIsExact : Obligations.ValueRoundTripIsExact := by
  intro s out back
  constructor
  · intro h
    obtain ⟨w0, w1, hs, hc⟩ := combine2_split2 s.order s.value32
    exact ⟨_, _, exec_toWords2 (h.imp And.left And.left) hs,
      exec_toValue32_of_stored (h.imp And.right And.right) s w0 w1 s.order, rfl, congrArg zext64 hc⟩
  · intro h
    obtain ⟨w0, w1, w2, w3, hs, hc⟩ := combine4_split4 s.order s.v
    exact ⟨_, _, exec_toWords4 (h.imp And.left And.left) hs,
      exec_toValue64_of_stored (h.imp And.right And.right) s w0 w1 w2 w3 s.order, rfl, hc⟩

/-- Settles O36: the stored words combined under the order that did not split them. -/
theorem crossOrderRoundTripReversesTheWords : Obligations.CrossOrderRoundTripReversesTheWords := by
  intro s o out back ho
  constructor
  · intro h
    obtain ⟨w0, w1, hs, hc⟩ := combine2_split2_other ho s.value32
    rw [State.value32_eq, BitVec.extractLsb'_extractLsb'_of_le (by decide),
      BitVec.extractLsb'_extractLsb'_of_le (by decide)] at hc
    exact ⟨_, _, exec_toWords2 (h.imp And.left And.left) hs,
      exec_toValue32_of_stored (h.imp And.right And.right) s w0 w1 o, rfl, congrArg zext64 hc⟩
  · intro h
    obtain ⟨w0, w1, w2, w3, hs, hc⟩ := combine4_split4_other ho s.v
    exact ⟨_, _, exec_toWords4 (h.imp And.left And.left) hs,
      exec_toValue64_of_stored (h.imp And.right And.right) s w0 w1 w2 w3 o, rfl, hc⟩

/-- Storing the words read below WCNT stores what the cells held, if they held a value (R44). -/
theorem Op.apply_own_words {s : State} {n : Nat} (hw : s.WbufWritten) (hn : s.wcnt.toNat = n) :
    ((Op.words (s.words n)).apply s).wcnt = s.wcnt ∧
      ∀ k, ((Op.words (s.words n)).apply s).wbuf.read? k = s.wbuf.read? k := by
  have hlen : (s.words n).length = n := by simp [State.words]
  constructor
  · have hcnt : (s.words n).length = s.wcnt.toNat := hlen.trans hn.symm
    exact (congrArg (BitVec.ofNat 16) hcnt).trans ((BitVec.ofNat_toNat 16 s.wcnt).trans (BitVec.setWidth_eq s.wcnt))
  · intro k
    by_cases hk : k < n
    · obtain ⟨w, hr⟩ := Option.isSome_iff_exists.mp (hw k (hn ▸ hk))
      rw [Op.apply_words_read? _ _ (hlen.symm ▸ hk), hr]
      simp [State.words, State.wbufRead, hk, hr]
    · exact Memory.read?_writeAll_outside _ s.wbuf 0 k (.inr (by omega))

/-- The 32-bit value of a zero-extended pattern is the pattern (10_state.md R36). -/
theorem value32_of_zext64 (x : BitVec 32) : (zext64 x).extractLsb' 0 32 = x := by
  rw [zext64, BitVec.extractLsb'_setWidth_of_le (by decide), BitVec.extractLsb'_eq_self]

/-- Settles O35: the combined value splits into the words it was combined from, which are stored where they stood. -/
theorem wordRoundTripIsExact : Obligations.WordRoundTripIsExact := by
  intro s out back hw h
  obtain ⟨hn, h⟩ | ⟨hn, h⟩ := h
  · let t := (Op.value (zext64 (combine2 s.order (s.wbufRead 0 0) (s.wbufRead 1 1)))).apply s
    have hs : split2 t.order t.value32 = t.words 2 :=
      (congrArg (split2 s.order) (value32_of_zext64 _)).trans (split2_combine2 _ _ _)
    obtain ⟨hwcnt, hcells⟩ := Op.apply_own_words (s := t) hw hn
    exact ⟨t, _, exec_toValue32 (h.imp And.left And.left) hn rfl, exec_toWords2 (h.imp And.right And.right) hs,
      hwcnt, hcells⟩
  · let t := (Op.value
      (combine4 s.order (s.wbufRead 0 0) (s.wbufRead 1 1) (s.wbufRead 2 2) (s.wbufRead 3 3))).apply s
    have hs : split4 t.order t.v = t.words 4 := split4_combine4 _ _ _ _ _
    obtain ⟨hwcnt, hcells⟩ := Op.apply_own_words (s := t) hw hn
    exact ⟨t, _, exec_toValue64 (h.imp And.left And.left) hn rfl, exec_toWords4 (h.imp And.right And.right) hs,
      hwcnt, hcells⟩

end Sys2Proof.Proofs

/-! SUPPORT. The string conversions (42_string.md): what R2STR and STR2R store, and each of the two run on the result of
the other (R152). -/

namespace Sys2Proof.Proofs

open Sys2Proof.Machine Sys2Proof.Claims

/-! The two bytes of a word (20_memory.md R64). -/

@[simp] theorem lowByte_packWord (hi lo : Byte) : lowByte (packWord hi lo) = lo := BitVec.extractLsb'_append_eq_right

@[simp] theorem highByte_packWord (hi lo : Byte) : highByte (packWord hi lo) = hi := BitVec.extractLsb'_append_eq_left

theorem packWord_own_bytes (w : Word) : packWord (highByte w) (lowByte w) = w := highByte_append_lowByte w

theorem packWord_zero_lowByte (w : Word) : packWord 0x00#8 (lowByte w) = w &&& 0x00FF#16 := by
  calc packWord 0x00#8 (lowByte w)
      = (highByte w &&& 0x00#8) ++ (lowByte w &&& 0xFF#8) := by
        rw [BitVec.and_zero, show 0xFF#8 = BitVec.allOnes 8 from rfl, BitVec.and_allOnes, packWord]
    _ = (highByte w ++ lowByte w) &&& (0x00#8 ++ 0xFF#8) := BitVec.and_append.symm
    _ = w &&& 0x00FF#16 := by rw [highByte_append_lowByte]; rfl

/-! What the two commands store. -/

section Stored
variable {s : State}

theorem stringByte_even (s : State) (k : Nat) :
    s.stringByte (2 * k) = lowByte (s.wbufRead (2 * k) (s.a.toNat + k)) := by
  simp [State.stringByte]

theorem stringByte_odd (s : State) (k : Nat) :
    s.stringByte (2 * k + 1) = highByte (s.wbufRead (2 * k + 1) (s.a.toNat + k)) := by
  have hhalf : (2 * k + 1) / 2 = k := by omega
  simp [State.stringByte, hhalf]

/-- Cell `j` of the bytes just stored holds byte `j`. -/
theorem Op.apply_bytes_read? (s : State) (bs : List Byte) {j : Nat} (h : j < bs.length) :
    ((Op.bytes bs).apply s).buf.read? j = some bs[j] :=
  read?_writeAll_zero bs s.buf h

theorem read?_stored_stringByte {j : Nat} (h : j < s.n.toNat) :
    ((Op.bytes s.stringBytes).apply s).buf.read? j = some (s.stringByte j) := by
  rw [Op.apply_bytes_read? s _ ((stringBytes_length s).symm ▸ h)]
  simp [State.stringBytes]

theorem read?_stored_stringWord {k : Nat} (h : k < (s.buflen.toNat + 1) / 2) :
    ((Op.words s.stringWords).apply s).wbuf.read? k = some (s.stringWord k) := by
  rw [Op.apply_words_read? s _ ((stringWords_length s).symm ▸ h)]
  simp [State.stringWords, ceil2, h]

theorem read?_above_stored_bytes {j : Nat} (h : s.n.toNat ≤ j) :
    ((Op.bytes s.stringBytes).apply s).buf.read? j = s.buf.read? j :=
  Op.apply_buf_outside (operation_belongsTo .r2str s) j h

theorem read?_above_stored_words {k : Nat} (h : (s.buflen.toNat + 1) / 2 ≤ k) :
    ((Op.words s.stringWords).apply s).wbuf.read? k = s.wbuf.read? k :=
  Op.apply_wbuf_outside (operation_belongsTo .str2r s) k h

/-- WCNT after STR2R is `ceil2(BUFLEN)`, which 16 bits hold (R153). -/
theorem wcnt_stored_stringWords (s : State) :
    ((Op.words s.stringWords).apply s).wcnt.toNat = (s.buflen.toNat + 1) / 2 := by
  have hlen : s.stringWords.length < 2 ^ 16 := by rw [stringWords_length]; omega
  calc (BitVec.ofNat 16 s.stringWords.length).toNat
      = s.stringWords.length := by rw [BitVec.toNat_ofNat, Nat.mod_eq_of_lt hlen]
    _ = (s.buflen.toNat + 1) / 2 := stringWords_length s

/-- R2STR inside both limits stores its bytes (R151). -/
theorem exec_r2str (h : s.a.toNat + (s.n.toNat + 1) / 2 ≤ s.wcnt.toNat) (hn : s.n.toNat ≤ s.params.bufCap) :
    exec .r2str s = .next ((Op.bytes s.stringBytes).apply s) :=
  exec_of_no_error (if_neg (not_or.mpr ⟨h.not_gt, hn.not_gt⟩))

/-- STR2R inside WCAP stores its words (R153). -/
theorem exec_str2r (h : (s.buflen.toNat + 1) / 2 ≤ s.params.wcap) :
    exec .str2r s = .next ((Op.words s.stringWords).apply s) :=
  exec_of_no_error (if_neg h.not_gt)

end Stored

/-- Settles O37: the stored bytes by their parity, and the cells from N on outside the stored range. -/
theorem registersBecomeAString : Obligations.RegistersBecomeAString := by
  intro s
  refine ⟨fun h hn => ⟨_, exec_r2str h hn, fun j hj => ?_, fun j hj => ?_, rfl⟩, fun h => ?_⟩
  · exact read?_stored_stringByte hj
  · exact read?_above_stored_bytes hj
  · exact exec_of_error (if_pos h) nofun

/-- Settles O38: the stored words pair the bytes, and the cells from the count on lie outside the stored range. -/
theorem stringBecomesRegisters : Obligations.StringBecomesRegisters := by
  intro s
  refine ⟨fun h => ⟨_, exec_str2r h, fun k hk => ?_, fun k hk => ?_, rfl, wcnt_stored_stringWords s⟩, fun h => ?_⟩
  · exact read?_stored_stringWord hk
  · exact read?_above_stored_words hk
  · exact exec_of_error (if_pos h) nofun

/-! One command after the other (R152). -/

/-- Read back from the words STR2R stored, with A = 0, byte `j` is the byte BUF presented there. -/
theorem stringByte_of_stored_words {s t : State} (ha : t.a = 0#32)
    (ht : t.wbuf = ((Op.words s.stringWords).apply s).wbuf) {j : Nat} (hj : j < s.buflen.toNat) :
    t.stringByte j = s.bufRead j j := by
  have read (i k : Nat) (hk : k < (s.buflen.toNat + 1) / 2) : t.wbufRead i (t.a.toNat + k) = s.stringWord k := by
    simp [State.wbufRead, ha, ht, read?_stored_stringWord hk]
  obtain ⟨k, rfl | rfl⟩ := Nat.even_or_odd' j
  · rw [stringByte_even, read _ k (by omega), State.stringWord, lowByte_packWord]
  · rw [stringByte_odd, read _ k (by omega), State.stringWord, highByte_packWord, if_pos hj]

/-- Settles O39: the words hold the bytes two by two, and reading them back below N = BUFLEN gives each byte again. -/
theorem stringRoundTripKeepsTheBytes : Obligations.StringRoundTripKeepsTheBytes := by
  intro s ⟨_, hcap, _⟩ hw hlen
  let t : State := { (Op.words s.stringWords).apply s with a := 0#32, n := s.buflen }
  have hcount : t.a.toNat + (t.n.toNat + 1) / 2 ≤ t.wcnt.toNat :=
    (Nat.zero_add _).trans_le (wcnt_stored_stringWords s).ge
  have hfits : (s.buflen.toNat + 1) / 2 ≤ s.params.wcap := by omega
  refine ⟨_, (Op.bytes t.stringBytes).apply t, exec_str2r hfits, exec_r2str hcount hcap, rfl, rfl, fun j => ?_⟩
  by_cases hj : j < s.buflen.toNat
  · obtain ⟨b, hb⟩ := Option.isSome_iff_exists.mp (hw j hj)
    have ha : t.a = 0#32 := rfl
    have ht : t.wbuf = ((Op.words s.stringWords).apply s).wbuf := rfl
    have hbyte : t.stringByte j = s.bufRead j j := stringByte_of_stored_words ha ht hj
    calc ((Op.bytes t.stringBytes).apply t).buf.read? j = some (t.stringByte j) := read?_stored_stringByte hj
      _ = some (s.bufRead j j) := congrArg some hbyte
      _ = s.buf.read? j := by simp [State.bufRead, hb]
  · exact read?_above_stored_bytes (s := t) (Nat.not_lt.mp hj)

/-- Packed again from the bytes R2STR stored, with A = 0, a word is itself, or its low byte alone where N cuts it. -/
theorem stringWord_of_stored_bytes {s : State} (ha : s.a = 0#32) {k : Nat} {w : Word} (hk : 2 * k < s.n.toNat)
    (hw : s.wbuf.read? k = some w) :
    ((Op.bytes s.stringBytes).apply s).stringWord k =
      packWord (if 2 * k + 1 < s.n.toNat then highByte w else 0x00#8) (lowByte w) := by
  have read (i j : Nat) (hj : j < s.n.toNat) :
      ((Op.bytes s.stringBytes).apply s).bufRead i j = s.stringByte j := by
    simp [State.bufRead, read?_stored_stringByte hj]
  have word (i : Nat) : s.wbufRead i (s.a.toNat + k) = w := by simp [State.wbufRead, ha, hw]
  have hlow : ((Op.bytes s.stringBytes).apply s).bufRead (2 * k) (2 * k) = lowByte w := by
    rw [read _ _ hk, stringByte_even, word]
  have hbound : ((Op.bytes s.stringBytes).apply s).bufBound = s.n.toNat := rfl
  rw [State.stringWord, hlow, hbound]
  split
  · next h => rw [read _ _ h, stringByte_odd, word]
  · rfl

/-- R2STR of all the words presented, then STR2R: WCNT returns, and each word with the bytes N left it. -/
theorem words_through_a_string {s : State} (hs : s.Inv) (ha : s.a = 0#32) (hn : (s.n.toNat + 1) / 2 = s.wcnt.toNat)
    (hcap : s.n.toNat ≤ s.params.bufCap) :
    ∃ t u, exec .r2str s = .next t ∧ exec .str2r t = .next u ∧ u.status.err = .none ∧ u.wcnt = s.wcnt ∧
      ∀ k w, 2 * k < s.n.toNat → s.wbuf.read? k = some w →
        u.wbuf.read? k = some (packWord (if 2 * k + 1 < s.n.toNat then highByte w else 0x00#8) (lowByte w)) := by
  obtain ⟨_, _, hwcap, _⟩ := hs
  let t : State := (Op.bytes s.stringBytes).apply s
  have hcount : s.a.toNat + (s.n.toNat + 1) / 2 ≤ s.wcnt.toNat := by simp [ha, hn]
  have hfits : (t.buflen.toNat + 1) / 2 ≤ t.params.wcap := hn.trans_le hwcap
  refine ⟨t, _, exec_r2str hcount hcap, exec_str2r hfits, rfl, ?_, fun k w hk hw => ?_⟩
  · exact BitVec.eq_of_toNat_eq ((wcnt_stored_stringWords t).trans hn)
  · have hk' : k < (t.buflen.toNat + 1) / 2 := show k < (s.n.toNat + 1) / 2 by omega
    rw [read?_stored_stringWord hk', stringWord_of_stored_bytes ha hk hw]

/-- Settles O40: N = 2 * WCNT leaves every word both its bytes, and one less takes the last word its high byte. -/
theorem wordsRoundTripThroughAString : Obligations.WordsRoundTripThroughAString := by
  intro s m hs hw hm ha
  constructor
  · intro hn hcap
    obtain ⟨t, u, ht, hu, herr, hwcnt, hword⟩ := words_through_a_string hs ha (by omega) (hn ▸ hcap)
    refine ⟨t, u, ht, hu, herr, hwcnt, fun k hk => ?_⟩
    obtain ⟨w, hr⟩ := Option.isSome_iff_exists.mp (hw k (hm ▸ hk))
    rw [hword k w (by omega) hr, if_pos (by omega), packWord_own_bytes, hr]
  · intro hn hcap
    obtain ⟨t, u, ht, hu, herr, hwcnt, hword⟩ := words_through_a_string hs ha (by omega) hcap
    refine ⟨t, u, ht, hu, herr, hwcnt, fun k hk => ?_, fun w hr => ?_⟩
    · obtain ⟨w, hr⟩ := Option.isSome_iff_exists.mp (hw k (by omega))
      rw [hword k w (by omega) hr, if_pos (by omega), packWord_own_bytes, hr]
    · rw [hword (m - 1) w (by omega) hr, if_neg (by omega), packWord_zero_lowByte]

end Sys2Proof.Proofs

/-! SUPPORT. The auxiliary word commands (43_wire_aux.md): what LDWBE stores (R161), and the value WIDEN leaves in V
(R163). -/

namespace Sys2Proof.Proofs

open Sys2Proof.Machine Sys2Proof.Claims

/-! What LDWBE stores. -/

section Stored
variable {s : State}

theorem read?_stored_wireWord {k : Nat} (h : k < s.n.toNat) :
    ((Op.words s.wireWords).apply s).wbuf.read? k = some (s.wireWord k) := by
  rw [Op.apply_words_read? s _ ((wireWords_length s).symm ▸ h)]
  simp [State.wireWords, h]

theorem read?_above_stored_wireWords {k : Nat} (h : s.n.toNat ≤ k) :
    ((Op.words s.wireWords).apply s).wbuf.read? k = s.wbuf.read? k :=
  Op.apply_wbuf_outside (operation_belongsTo .ldwbe s) k h

/-- LDWBE changes WBUF, sets WCNT to N, and completes: N words are counted as N itself (R161). -/
theorem apply_wireWords_eq (s : State) :
    let t := (Op.words s.wireWords).apply s
    t = { s with wbuf := t.wbuf, wcnt := s.n, status := done s .none } := by
  have hcount : BitVec.ofNat 16 s.n.toNat = s.n := by simp
  have h := Op.apply_words_eq s (wireWords_length s)
  rwa [hcount] at h

/-- LDWBE inside both limits stores its words (R161). -/
theorem exec_ldwbe (h : s.a.toNat + 2 * s.n.toNat ≤ s.buflen.toNat) (hn : s.n.toNat ≤ s.params.wcap) :
    exec .ldwbe s = .next ((Op.words s.wireWords).apply s) :=
  exec_of_no_error (if_neg (not_or.mpr ⟨h.not_gt, hn.not_gt⟩))

end Stored

/-- Settles O41: the stored words pair the bytes high byte first, and the cells from N on lie outside them. -/
theorem wireBytesBecomeWords : Obligations.WireBytesBecomeWords := by
  intro s
  refine ⟨fun h hn => ⟨_, exec_ldwbe h hn, fun k hk => ?_, fun k hk => ?_, ?_⟩, fun h => ?_⟩
  · exact read?_stored_wireWord hk
  · exact read?_above_stored_wireWords hk
  · exact apply_wireWords_eq s
  · exact exec_of_error (if_pos h) nofun

/-! The value of WIDEN: the word, its bit 15 above it, and zeros in the upper half (R163). -/

theorem zext64_getLsbD_low (x : BitVec 32) {k : Nat} (h : k < 32) : (zext64 x).getLsbD k = x.getLsbD k := by
  rw [zext64, BitVec.getLsbD_setWidth, decide_eq_true (h.trans (by decide)), Bool.true_and]

theorem zext64_upper_half (x : BitVec 32) : (zext64 x).extractLsb' 32 32 = 0#32 := by
  rw [zext64, BitVec.setWidth_eq_append (by decide)]
  exact BitVec.extractLsb'_append_eq_left

theorem sext32_low_half (w : Word) : (sext32 w).extractLsb' 0 16 = w := by
  rw [sext32, BitVec.signExtend_eq_append_of_le (by decide)]
  exact BitVec.extractLsb'_append_eq_right

/-- Above bit 15 a sign-extended word repeats bit 15 (00_scope.md R12). -/
theorem sext32_getLsbD_high (w : Word) {k : Nat} (h : 16 ≤ k) (hk : k < 32) :
    (sext32 w).getLsbD k = w.getLsbD 15 := by
  rw [sext32, BitVec.getLsbD_signExtend, decide_eq_true hk, Bool.true_and, if_neg h.not_gt, BitVec.msb_eq_getLsbD_last]

/-- Settles O42: the value is the sign-extended word with zeros above it, read half by half. -/
theorem widenSignExtendsTheWord : Obligations.WidenSignExtendsTheWord := by
  intro s
  refine ⟨fun h => ⟨_, exec_of_no_error (if_neg h.not_ge), ?_, fun k hk hk' => ?_, ?_⟩, fun h => ?_⟩
  · exact (BitVec.extractLsb'_setWidth_of_le (by decide)).trans (sext32_low_half _)
  · exact (zext64_getLsbD_low _ hk').trans (sext32_getLsbD_high _ hk hk')
  · exact zext64_upper_half _
  · exact exec_of_error (if_pos h) nofun

end Sys2Proof.Proofs

/-! SUPPORT. The errors: which error each command completes with, and that an error changes ERR and BUSY alone
(60_exceptions.md R171 to R176). -/

namespace Sys2Proof.Proofs

open Sys2Proof.Machine Sys2Proof.Claims

/-- Every command completes with the error of its condition: an operation completes with ERR = None (10_state.md R29,
60_exceptions.md R174, R175). -/
theorem ending_err (i : Instr) (s : State) : (ending i s).status.err = errorOf i s := by
  by_cases h : errorOf i s = .none
  · rw [ending_of_none h, Op.apply_err, h]
  · rw [ending_of_error rfl h, State.complete_status]

/-- Settles O43: every command completes at its ending, and a reserved code by raising IllegalCommand. -/
theorem errorCodeOfEveryCommand : Obligations.ErrorCodeOfEveryCommand :=
  fun s => ⟨fun i => ⟨ending i s, exec_eq_ending i s, ending_err i s⟩, s.complete .illegalCommand, rfl, rfl⟩

/-- Settles O44: raising an error is the completion event alone, and a command that performs its operation ends with
ERR = None. -/
theorem errorsArePrecise : Obligations.ErrorsArePrecise := by
  intro d s t h herr
  cases d with
  | illegalCommand => cases h; rfl
  | command i =>
    obtain ⟨e, -, rfl⟩ | ⟨-, op, -, rfl⟩ := exec_cases h
    · rfl
    · exact absurd (op.apply_err s) herr

end Sys2Proof.Proofs

/-! SUPPORT. Reset and hazards (70_reset_and_hazards.md): the completion of a running command, HostReset, and the stray
access while BUSY. -/

namespace Sys2Proof.Proofs

open Sys2Proof.Machine Sys2Proof.Claims

/-- Whatever the code, a command of R92 or a reserved one, running it reaches a completion event, which clears BUSY
(10_state.md R26, 70_reset_and_hazards.md R221). -/
theorem runDecoded_completes (d : Decoded) (s : State) :
    ∃ t, runDecoded d s = .next t ∧ t.status.busy = false := by
  cases d with
  | command i =>
    obtain ⟨t, ht⟩ := exec_completes i s
    exact ⟨t, ht, exec_not_busy ht⟩
  | illegalCommand => exact ⟨s.complete .illegalCommand, rfl, rfl⟩

/-- Settles O11: the block's turn runs the code in flight, which completes. -/
theorem everyRunningCommandCompletes : Obligations.EveryRunningCommandCompletes := by
  intro s hb hn
  rw [step_of_blockIsNext hb hn]
  exact runDecoded_completes (decode s.cmd) s.tick

/-- HostReset is allowed at any time, busy or not (70_reset_and_hazards.md R200). -/
theorem step_reset {s : State} {es : List Event} (he : s.events = .host .reset :: es) :
    step s = .next s.tick.hostReset := by
  rw [step_host _ _ _ he, perform_allowed _ _ rfl, access]

/-- After HostReset both buffers read as never written (10_state.md R44, 70_reset_and_hazards.md R201). -/
theorem hostReset_buffersUnspecified (s : State) : buffersUnspecified s.hostReset :=
  ⟨Memory.read?_nil, Memory.read?_nil⟩

/-- Settles O4: the step is HostReset alone, which keeps what is not the block's. -/
theorem hostResetGivesTheResetState : Obligations.HostResetGivesTheResetState := by
  intro s es he
  have htail : s.tick.hostReset.events = es := by simp [he]
  exact ⟨s.tick.hostReset, step_reset he, hostReset_registersAtReset _, hostReset_buffersUnspecified _, rfl, rfl, htail,
    rfl⟩

/-- The primitives BUSY does not allow are all but HostReset and a STATUS read (70_reset_and_hazards.md R210). -/
theorem allowedWhileBusy_eq_false_iff (p : Primitive) :
    p.allowedWhileBusy = false ↔ p ≠ .reset ∧ ∀ width, p ≠ .readReg 1 width := by
  cases p with
  | readReg r width => simp [Primitive.allowedWhileBusy, Reg.number]
  | reset | writeReg | readBuf | writeBuf | readWord | writeWord => simp [Primitive.allowedWhileBusy]

/-- Settles O19: a primitive that BUSY does not allow is a stray access. -/
theorem accessWhileBusyFaults : Obligations.AccessWhileBusyFaults := by
  intro s p es hb he hp
  rw [step_host _ _ _ he]
  exact perform_stray p s.tick hb ((allowedWhileBusy_eq_false_iff p).mpr hp)

end Sys2Proof.Proofs
